-- ==== Sys2Proof/Word.lean ====
section
/-! DEFINITION. Bytes, byte strings and byte strings of a fixed length (00_scope.md rule R7). -/

namespace Sys2Proof

/-- A byte: 8 bits, an unsigned value 0..255, bit 7 the most significant (rule R7). -/
abbrev Byte := BitVec 8

/-- A byte string of any finite length; byte `i` is counted from 0 (rule R7). -/
abbrev Bytes := List Byte

/-- A byte string of exactly `n` bytes. The registers of rule R20 whose width is given in bytes hold
one of these, so a partly filled key, window or envelope field cannot be written down (rule R56). -/
structure FixedBytes (n : Nat) where
  bytes : Bytes
  size  : bytes.length = n
deriving DecidableEq, Repr

/-- A 16-byte block of AES and GCM (43_aes128.md, 44_gcm_primitives.md). -/
abbrev Block := FixedBytes 16

end Sys2Proof
end

