-- ==== Sys2Proof/Config.lean ====
section
/-! DEFINITION. What an implementation fixes: the lengths of rule R5 that give the registers their widths,
and the two parameters that rule R6 leaves open (no body: nothing in Lean can evaluate them). The offsets and
byte values of rule R5 stand in Machine/Operands.lean and Machine/Flags.lean, beside what uses them. -/

namespace Sys2Proof.Config

/-- `WINDOW_LEN`: bytes in one RawWindow (rule R5). -/
abbrev windowLen : Nat := 282

/-- `KEY_LEN`: bytes of the AES key (rule R5). -/
abbrev keyLen : Nat := 16

/-- Bytes of `MBUS_START`, the wrapper's first four bytes (rules R20, R122). -/
abbrev startLen : Nat := 4

/-- `TITLE_LEN`: bytes of the system title (rule R5). -/
abbrev titleLen : Nat := 8

/-- `CTR_LEN`: bytes of the frame counter (rule R5). -/
abbrev ctrLen : Nat := 4

/-- `NONCE_LEN`: bytes of the GCM nonce (rule R5). -/
abbrev nonceLen : Nat := 12

/-- `CT_MAX`: the largest ciphertext span, `6 + 255 - 26` bytes (rule R5). -/
abbrev ctMax : Nat := 235

/-- `PAUSE`, in milliseconds (rule R5): recorded only, no rule depends on the figure (rule R261). -/
def pauseMillis : Nat := 2500

/-- The legal values of `TAG_LEN` (rule R6, 93_implementation_defined.md U1). -/
inductive TagLen where
  | t4 | t8 | t12 | t13 | t14 | t15 | t16
deriving DecidableEq, Repr, Inhabited

/-- The tag length in bytes. -/
def TagLen.len : TagLen → Nat
  | .t4 => 4
  | .t8 => 8
  | .t12 => 12
  | .t13 => 13
  | .t14 => 14
  | .t15 => 15
  | .t16 => 16

/-- A value of `AAD`: a fixed byte string with `AAD_LEN` below 2^61 (rule R6, U2). -/
structure Aad where
  bytes : Bytes := []
  bound : bytes.length < 2 ^ 61 := by decide
deriving DecidableEq, Repr, Inhabited

/-- `TAG_LEN`, an open parameter of the hardware (rule R6, D14): one of the seven legal lengths, which one
is not known here. Marked in notes/assumptions/6.md. -/
opaque tagLen : TagLen

/-- `AAD`, an open parameter of the hardware (rule R6, D15): any fixed byte string of a legal length, the
empty string (the spec's default) among them. Marked in notes/assumptions/7.md. -/
opaque aad : Aad

end Sys2Proof.Config
end

