-- ==== Sys2Proof/Syntax.lean ====
section
/-! DEFINITION. The operation set (30_encoding.md rule R71): the five commands of spec/opcode_table.json. `TEXP` is
an event of the pause timer and no command; it is an input of Machine/State.lean. -/

namespace Sys2Proof

/-- The operations of the table of rule R71, without their operands. -/
inductive Opcode where
  | ldkey | ldwin | split | decrypt | clr
deriving DecidableEq, Repr

/-- A command: an operation with its operand bytes (rules R70, R71). -/
inductive Instr where
  /-- `LDKEY`, load the key (rule R100). -/
  | ldkey (data : Bytes)
  /-- `LDWIN`, load a window and begin a cycle (rule R102). -/
  | ldwin (data : Bytes)
  /-- `SPLIT`, check the wrapper and extract the envelope (rule R120). -/
  | split
  /-- `DECRYPT`, authenticated decryption of the span (rule R140). -/
  | decrypt
  /-- `CLR`, abandon the cycle (rule R104). -/
  | clr
deriving DecidableEq, Repr

/-- The operation of a command. -/
def Instr.opcode : Instr → Opcode
  | .ldkey _ => .ldkey
  | .ldwin _ => .ldwin
  | .split => .split
  | .decrypt => .decrypt
  | .clr => .clr

/-- The operand bytes of a command; `SPLIT`, `DECRYPT` and `CLR` have none (rule R71). -/
def Instr.operand : Instr → Bytes
  | .ldkey data => data
  | .ldwin data => data
  | .split => []
  | .decrypt => []
  | .clr => []

end Sys2Proof
end

