-- ==== Sys2Proof/WellFormed.lean ====
section
/-! DEFINITION. When a command is well formed: its operand has exactly the length the table of rule R71 gives. -/

namespace Sys2Proof

/-- `LDKEY` carries 16 bytes and `LDWIN` 282, as whole units (rules R56, R71); the other commands carry none. -/
def Instr.wellFormed : Instr → Bool
  | .ldkey data => data.length == Config.keyLen
  | .ldwin data => data.length == Config.windowLen
  | .split => true
  | .decrypt => true
  | .clr => true

end Sys2Proof
end

