-- ==== Sys2Proof/Decode.lean ====
section
/-! DEFINITION. The decoder of command frames (30_encoding.md rules R70 to R74, R76), total on any byte string and
rejecting by name, and after it the encoder, from the same table. -/

namespace Sys2Proof

/-- Why a frame is no command: the two refusals that the frame alone decides (rule R72). -/
inductive DecodeError where
  /-- An empty frame, or a first byte outside the table (rule R74). Safe: refused as the spec says. -/
  | unknownOp
  /-- A known opcode with a frame of the wrong length (rule R72). Safe: refused as the spec says. -/
  | badLength
deriving DecidableEq, Repr

/-- The opcode byte of the table of rule R71. -/
def Opcode.byte : Opcode → Byte
  | .ldkey => 0x01#8
  | .ldwin => 0x02#8
  | .split => 0x03#8
  | .decrypt => 0x04#8
  | .clr => 0x05#8

/-- The number of operand bytes of the table of rule R71: the `n` of rule R72. -/
def Opcode.operandLen : Opcode → Nat
  | .ldkey => Config.keyLen
  | .ldwin => Config.windowLen
  | .split => 0
  | .decrypt => 0
  | .clr => 0

/-- The operation a first byte names, matched on all eight bits (rule R71); 0x00 and 0x06 to 0xFF name none
(rule R74). -/
def opcodeOf (b : Byte) : Option Opcode :=
  if b = 0x01#8 then some .ldkey
  else if b = 0x02#8 then some .ldwin
  else if b = 0x03#8 then some .split
  else if b = 0x04#8 then some .decrypt
  else if b = 0x05#8 then some .clr
  else none

/-- The command made of an operation and its operand: byte 0 of the operand first, nothing extended, scaled or
shifted (rule R73). -/
def Opcode.instr : Opcode → Bytes → Instr
  | .ldkey, data => .ldkey data
  | .ldwin, data => .ldwin data
  | .split, _ => .split
  | .decrypt, _ => .decrypt
  | .clr, _ => .clr

/-- Decoding a delimited frame in the order of rule R72: first the opcode, then the length. -/
def decode : Bytes → Except DecodeError Instr
  | [] => .error .unknownOp
  | op :: data =>
    match opcodeOf op with
    | none => .error .unknownOp
    | some o => if data.length = o.operandLen then .ok (o.instr data) else .error .badLength

/-- The frame of a command: its opcode byte, then its operand (rule R70). -/
def encode (i : Instr) : Bytes := i.opcode.byte :: i.operand

/-- The length of the frame that a first byte begins: 17, 283 or 1 (rules R72, R76). A byte that names no
operation is cut as a frame of one byte. -/
def frameLenOf (b : Byte) : Nat :=
  match opcodeOf b with
  | some o => 1 + o.operandLen
  | none => 1

/-- The low `8 * n` bits of `w` as `n` bytes, the least significant first: the numbering of
spec/opcode_table.json. -/
def tableBytes : Nat → Nat → Bytes
  | 0, _ => []
  | n + 1, w => BitVec.ofNat 8 w :: tableBytes n (w / 256)

/-- The frame of a word of the opcode table: its `nbits` bits in whole bytes, lengthened with zero bytes to the
length its first byte tells (rule R72; notes/assumptions/5.md). -/
def tableFrame (nbits w : Nat) : Bytes :=
  let v := w % 2 ^ nbits
  tableBytes (max ((nbits + 7) / 8) (frameLenOf (BitVec.ofNat 8 v))) v

/-- What the decoder reads from a word of the opcode table; `none` where it refuses. -/
def decodeTableWord (nbits w : Nat) : Option Instr :=
  match decode (tableFrame nbits w) with
  | .ok i => some i
  | .error _ => none

end Sys2Proof
end

