-- ==== Sys2Proof/Machine/Bytes.lean ====
section
/-! DEFINITION. Byte strings: parts, concatenation, exclusive-or, big-endian integers and hex text (00_scope.md rule
R7, 20_memory.md rules R51 to R53). -/

namespace Sys2Proof

/-- `X[i]` of a fixed-length string (rule R7). -/
def FixedBytes.get {n : Nat} (s : FixedBytes n) (i : Fin n) : Byte := s.bytes.get (i.cast s.size.symm)

/-- The string whose byte `i` is `f i`. -/
def FixedBytes.ofFn {n : Nat} (f : Fin n → Byte) : FixedBytes n := ⟨List.ofFn f, by simp⟩

/-- The first `n` bytes of `l`, filled with zero bytes where `l` is shorter. -/
def FixedBytes.ofBytes (n : Nat) (l : Bytes) : FixedBytes n := ⟨(l ++ List.replicate n 0#8).take n, by simp⟩

/-- `0^(8n)`: `n` zero bytes (rule R7). -/
def FixedBytes.zero (n : Nat) : FixedBytes n := ⟨List.replicate n 0#8, by simp⟩

/-- `X[a..a+k)` of a fixed-length string (rule R7). -/
def FixedBytes.slice {n : Nat} (s : FixedBytes n) (a k : Nat) (h : a + k ≤ n := by decide) : FixedBytes k :=
  ⟨(s.bytes.drop a).take k, by simp [s.size]; omega⟩

/-- `A ‖ B` of fixed-length strings (rule R7). -/
def FixedBytes.append {m n : Nat} (a : FixedBytes m) (b : FixedBytes n) : FixedBytes (m + n) :=
  ⟨a.bytes ++ b.bytes, by simp [a.size, b.size]⟩

/-- `⊕` of fixed-length strings (rule R7). -/
def FixedBytes.xor {n : Nat} (a b : FixedBytes n) : FixedBytes n :=
  ⟨List.zipWith (· ^^^ ·) a.bytes b.bytes, by simp [a.size, b.size]⟩

/-- `⊕` of a byte string with the leading bytes of another that is at least as long (rule R7). -/
def xorLeading (x ks : Bytes) : Bytes := List.zipWith (· ^^^ ·) x ks

/-- `be_(8n)(v)`: the integer `v` in `n` bytes, most significant first (rule R7). -/
def beBytes : Nat → Nat → Bytes
  | 0, _ => []
  | n + 1, v => beBytes n (v / 256) ++ [BitVec.ofNat 8 v]

/-- `int_be(X)`, the inverse (rule R7). -/
def intBE (l : Bytes) : Nat := l.foldl (fun acc b => acc * 256 + b.toNat) 0

theorem beBytes_length (n v : Nat) : (beBytes n v).length = n := by
  induction n generalizing v with
  | zero => rfl
  | succ n ih => simp [beBytes, ih]

/-- `be_(8n)(v)` as a string of `n` bytes. -/
def FixedBytes.ofNat (n v : Nat) : FixedBytes n := ⟨beBytes n v, beBytes_length n v⟩

/-- The hexadecimal digit of a nibble, in upper case (rule R7; case carries no meaning). -/
def hexDigit (n : Nat) : Char :=
  if n < 10 then Char.ofNat (48 + n) else Char.ofNat (55 + n)

/-- `hex(X)`: two digits a byte, high nibble first, bytes in order (rules R7, R51). -/
def hexText : Bytes → List Char
  | [] => []
  | b :: rest => hexDigit (b.toNat / 16) :: hexDigit (b.toNat % 16) :: hexText rest

/-- The value of a hexadecimal digit of either case (rules R7, R84). -/
def hexValue (c : Char) : Option Nat :=
  let n := c.toNat
  if 48 ≤ n ∧ n ≤ 57 then some (n - 48)
  else if 65 ≤ n ∧ n ≤ 70 then some (n - 55)
  else if 97 ≤ n ∧ n ≤ 102 then some (n - 87)
  else none

/-- The byte string of a hex text: the pair for byte `i` stands at characters `2i` and `2i + 1`, high nibble first
(rule R51). `none` for an odd number of characters or a character that is no digit. -/
def parseHex : List Char → Option Bytes
  | [] => some []
  | [_] => none
  | hi :: lo :: rest =>
    match hexValue hi, hexValue lo, parseHex rest with
    | some h, some l, some bs => some (BitVec.ofNat 8 (16 * h + l) :: bs)
    | _, _, _ => none

end Sys2Proof
end

