-- ==== Sys2Proof/Machine/Aes.lean ====
section
/-! DEFINITION. The AES-128 forward cipher (43_aes128.md). The spec marks that whole file as written from general
knowledge; the model follows its rules as the rules of this hardware (notes/assumptions/16.md). -/

namespace Sys2Proof.Machine

/-- `xtime(b)`: the product `b · x` modulo 0x11B (rule R178). -/
def xtime (b : Byte) : Byte := if b.msb then (b <<< 1) ^^^ 0x1B#8 else b <<< 1

/-- The product of `a` with the polynomial made of the top `n` bits of `b`: each further bit of `b` multiplies what
is there by `x` and adds `a` where the bit is 1, so the result is a `⊕` of `xtime`-multiples of `a`. -/
def gf8MulTop (a b : Byte) : Nat → Byte
  | 0 => 0#8
  | n + 1 => xtime (gf8MulTop a b n) ^^^ (if b.getMsbD n then a else 0#8)

/-- Multiplication in GF(2^8) (rule R178). -/
def gf8Mul (a b : Byte) : Byte := gf8MulTop a b 8

/-- The multiplicative inverse in GF(2^8), 0x00 for 0x00 (rule R178), computed as the 254th power. -/
def gf8Inv (a : Byte) : Byte :=
  let a2 := gf8Mul a a
  let a4 := gf8Mul a2 a2
  let a8 := gf8Mul a4 a4
  let a16 := gf8Mul a8 a8
  let a32 := gf8Mul a16 a16
  let a64 := gf8Mul a32 a32
  let a128 := gf8Mul a64 a64
  gf8Mul a2 (gf8Mul a4 (gf8Mul a8 (gf8Mul a16 (gf8Mul a32 (gf8Mul a64 a128)))))

/-- The S-box by its definition: the inverse, then the affine map (rule R172, first sentence). -/
def sboxFormula (a : Byte) : Byte :=
  let b := gf8Inv a
  b ^^^ b.rotateLeft 1 ^^^ b.rotateLeft 2 ^^^ b.rotateLeft 3 ^^^ b.rotateLeft 4 ^^^ 0x63#8

/-- The table of rule R172: one number a row, the row's sixteen bytes from left to right. -/
def sboxRows : List Nat :=
  [0x637c777bf26b6fc53001672bfed7ab76, 0xca82c97dfa5947f0add4a2af9ca472c0,
   0xb7fd9326363ff7cc34a5e5f171d83115, 0x04c723c31896059a071280e2eb27b275,
   0x09832c1a1b6e5aa0523bd6b329e32f84, 0x53d100ed20fcb15b6acbbe394a4c58cf,
   0xd0efaafb434d338545f9027f503c9fa8, 0x51a3408f929d38f5bcb6da2110fff3d2,
   0xcd0c13ec5f974417c4a77e3d645d1973, 0x60814fdc222a908846eeb814de5e0bdb,
   0xe0323a0a4906245cc2d3ac629195e479, 0xe7c8376d8dd54ea96c56f4ea657aae08,
   0xba78252e1ca6b4c6e8dd741f4bbd8b8a, 0x703eb5664803f60e613557b986c11d9e,
   0xe1f8981169d98e949b1e87e9ce5528df, 0x8ca1890dbfe6426841992d0fb054bb16]

/-- `SBOX[a]`: row the high nibble of `a`, column the low nibble (rule R172). -/
def sbox (a : Byte) : Byte :=
  BitVec.ofNat 8 (sboxRows.getD (a.toNat / 16) 0 >>> (8 * (15 - a.toNat % 16)))

/-- `s[r][c]` of the state that a block fills column by column: byte `r + 4c` (rule R171); `r` and `c` below 4. -/
def cell (s : Block) (r c : Nat) : Byte := s.get ⟨(r + 4 * c) % 16, Nat.mod_lt _ (by decide)⟩

/-- The block of a state given cell by cell (`block_of`, rule R171). -/
def ofCells (f : Nat → Nat → Byte) : Block := .ofFn fun i => f (i.val % 4) (i.val / 4)

/-- `SubBytes` (rule R173). -/
def subBytes (s : Block) : Block := ofCells fun r c => sbox (cell s r c)

/-- `ShiftRows` (rule R174). -/
def shiftRows (s : Block) : Block := ofCells fun r c => cell s r ((c + r) % 4)

/-- The matrix of rule R175: the coefficient of `s[k][c]` in `s'[r][c]`, applied to a byte. -/
def mixTerm (r k : Nat) (b : Byte) : Byte :=
  match (k + 4 - r) % 4 with
  | 0 => xtime b
  | 1 => xtime b ^^^ b
  | _ => b

/-- `MixColumns` (rule R175). -/
def mixColumns (s : Block) : Block := ofCells fun r c =>
  mixTerm r 0 (cell s 0 c) ^^^ mixTerm r 1 (cell s 1 c) ^^^ mixTerm r 2 (cell s 2 c) ^^^ mixTerm r 3 (cell s 3 c)

/-- A word of the key schedule: bytes `w[i][0..3]` (rule R176). -/
abbrev KeyWord := FixedBytes 4

/-- `RCON[j]` is `x^(j-1)` in GF(2^8) (rule R179). -/
def rcon (j : Nat) : Byte := (xtime^[j - 1]) 0x01#8

/-- `RotWord` then `SubWord` then the round constant in byte 0 (rules R176, R179). -/
def scheduleCore (j : Nat) (t : KeyWord) : KeyWord :=
  (FixedBytes.ofFn fun k => sbox (t.get (k + 1))).xor (FixedBytes.ofFn fun k => if k = 0 then rcon j else 0#8)

/-- `w[i]` from `w[i-1]` and `w[i-4]` (rule R176). -/
def nextKeyWord (i : Nat) (prev old : KeyWord) : KeyWord :=
  old.xor (if i % 4 = 0 then scheduleCore (i / 4) prev else prev)

/-- `n` more words after `w[i-1]`, `w[i-2]`, ..., which stand newest first in `ws`. -/
def expandKeyWords : Nat → Nat → List KeyWord → List KeyWord
  | 0, _, ws => ws
  | n + 1, i, ws => expandKeyWords n (i + 1) (nextKeyWord i (ws.getD 0 (.zero 4)) (ws.getD 3 (.zero 4)) :: ws)

/-- `KeyExpansion(K)`: the words `w[0..43]` (rule R176). -/
def keyExpansion (k : Block) : List KeyWord :=
  (expandKeyWords 40 4 [k.slice 12 4, k.slice 8 4, k.slice 4 4, k.slice 0 4]).reverse

/-- `w[4j..4j+3]` as 16 bytes, the words one after another: column `c` of a state meets word `w[4j+c]`
(rule R177). -/
def roundKey (ws : List KeyWord) (j : Nat) : Block :=
  .ofBytes 16 (((ws.drop (4 * j)).take 4).flatMap FixedBytes.bytes)

/-- `AddRoundKey` with the words `w[4j..4j+3]` (rule R177). -/
def addRoundKey (ws : List KeyWord) (j : Nat) (s : Block) : Block := s.xor (roundKey ws j)

/-- Rounds 1 to `n` (rule R170), each with `MixColumns`. -/
def middleRounds (ws : List KeyWord) : Nat → Block → Block
  | 0, s => s
  | n + 1, s => addRoundKey ws (n + 1) (mixColumns (shiftRows (subBytes (middleRounds ws n s))))

/-- `AES(K, X)`, the AES-128 forward cipher on one block (rule R170). -/
def aes (k x : Block) : Block :=
  let ws := keyExpansion k
  addRoundKey ws 10 (shiftRows (subBytes (middleRounds ws 9 (addRoundKey ws 0 x))))

end Sys2Proof.Machine
end

