-- ==== Sys2Proof/Machine/State.lean ====
section
/-! DEFINITION. The state of the MBUS-GCM block (10_state.md), the inputs of its agents, its faults and refusals,
and the machine right after reset (rule R39). -/

namespace Sys2Proof.Machine

/-- `PHASE` (rule R21): exactly the five values that are ever taken (U10). Its codes are in Machine/Flags.lean. -/
inductive Phase where
  | idle | loaded | envelope | done | recover
deriving DecidableEq, Repr

/-- `ERR` (rule R31): exactly the four values that are ever taken (U10). -/
inductive ErrClass where
  | none | frameInvalid | decryptLen | decryptTag
deriving DecidableEq, Repr

/-- `CSTAT` (rule R32): exactly the five values that are ever taken (U10). -/
inductive CStat where
  | ok | unknownOp | badLength | seq | nokey
deriving DecidableEq, Repr

/-- The four causes a command can be refused for (rule R212). -/
inductive RefuseCause where
  | unknownOp | badLength | seq | nokey
deriving DecidableEq, Repr

/-- The two causes of `DecryptError` (rule R211). -/
inductive DecryptCause where
  | len | tag
deriving DecidableEq, Repr

/-- The errors the block raises (rule R211). -/
inductive CycleError where
  | frameInvalid
  | decryptError (cause : DecryptCause)
deriving DecidableEq, Repr

/-- The events the block emits; there is only one (rule R37). -/
inductive OutEvent where
  | resyncReq
deriving DecidableEq, Repr

/-- What the agents of rule R10 and the reset input of rule R250 do next. One list of these in State is the order
in which the agents take their steps (notes/assumptions/1.md); the block itself queues nothing (rule R258). -/
inductive Input where
  /-- The host presents one delimited command frame (rule R70). -/
  | frame (f : Bytes)
  /-- The pause timer takes its step `TEXP` (rule R106). -/
  | timer
  /-- The reset input is asserted (rule R250). -/
  | reset
deriving DecidableEq, Repr

/-- The five envelope registers together: the FrameEnvelope (rules R9, R25). -/
structure Envelope where
  mbusStart : FixedBytes Config.startLen
  frameLen  : BitVec 8
  sysTitle  : FixedBytes Config.titleLen
  frameCtr  : FixedBytes Config.ctrLen
  ctLen     : BitVec 8
deriving DecidableEq, Repr

/-- The complete state of the block (rule R20), with `none` for `⊥`, and after it `inputs`, the model's own record
of what the agents do next. -/
structure State where
  /-- `PHASE`, rule R21. -/
  phase     : Phase
  /-- `KEY`, rule R23. -/
  key       : Option (FixedBytes Config.keyLen)
  /-- `WIN`, rule R24. -/
  win       : Option (FixedBytes Config.windowLen)
  /-- `MBUS_START`, register 1, rule R25. -/
  mbusStart : Option (FixedBytes Config.startLen)
  /-- `FRAME_LEN`, register 2, rule R25. -/
  frameLen  : Option (BitVec 8)
  /-- `SYS_TITLE`, register 3, rule R25. -/
  sysTitle  : Option (FixedBytes Config.titleLen)
  /-- `FRAME_CTR`, register 4, rule R25. -/
  frameCtr  : Option (FixedBytes Config.ctrLen)
  /-- `CT_LEN`, register 5, rule R25 (8 bits, 90_conflicts.md C7). -/
  ctLen     : Option (BitVec 8)
  /-- `APDU_LEN`, register 6, rule R26. -/
  apduLen   : Option (BitVec 8)
  /-- `APDU`, register 7, rule R26. -/
  apdu      : Option Bytes
  /-- `GETRESP`, rule R27. -/
  getresp   : Bool
  /-- `ERR`, rule R31. -/
  err       : ErrClass
  /-- `CSTAT`, rule R32. -/
  cstat     : CStat
  /-- `OUT`, the record of emitted events, oldest first, rule R37. -/
  out       : List OutEvent
  /-- The model's own: the steps the agents take next, soonest first (notes/assumptions/1.md). -/
  inputs    : List Input
deriving DecidableEq, Repr

/-- Why the machine stops. -/
inductive Fault where
  /-- Raised by `SPLIT` and `DECRYPT` where a register they read holds `⊥` although the phase says it holds a
  value. Rule R8: "a rule never reads a register that holds" no value. No reachable state raises it
  (rule R34). Safe: the model stops where the spec gives no behaviour. -/
  | readsNoValue
  /-- Raised by a `timer` input outside phase RECOVER: rule R106 enables `TEXP` "exactly when" the phase is
  RECOVER, so there is no such step. Safe: the model has no step where the spec has none. -/
  | timerNotEnabled
deriving DecidableEq, Repr

/-- Why the model gives no meaning. -/
inductive Refusal where
  /-- Raised by an arm of `exec` for a command without a meaning yet; no arm raises it now. Safe: it stops. -/
  | notModelled (mnemonic : String)
deriving DecidableEq, Repr

/-- One step's outcome. -/
abbrev Result := Host.Outcome State Fault Refusal

/-- The machine right after reset, every row of the table of rule R39. `OUT` starts empty, as vector V1 has it, and
no agent has anything to do yet (notes/assumptions/12.md). -/
def State.reset : State where
  phase     := .idle
  key       := none
  win       := none
  mbusStart := none
  frameLen  := none
  sysTitle  := none
  frameCtr  := none
  ctLen     := none
  apduLen   := none
  apdu      := none
  getresp   := false
  err       := .none
  cstat     := .ok
  out       := []
  inputs    := []

end Sys2Proof.Machine
end

