-- ==== Sys2Proof/Machine/Gcm.lean ====
section
/-! DEFINITION. The GCM primitives (44_gcm_primitives.md) and authenticated decryption as a function of its inputs
(42_decryptor.md rules R142 to R147, R152). Everything here is pure: no state, no fault. -/

namespace Sys2Proof.Machine

/-- `inc32(X)`: bytes 12..15, as a big-endian integer, plus one modulo 2^32; no carry into byte 11 (rule R190). -/
def inc32 (x : Block) : Block :=
  (x.slice 0 12).append (FixedBytes.ofNat 4 ((intBE (x.slice 12 4).bytes + 1) % 2 ^ 32))

/-- `n` blocks of counter-mode output from the counter block `cb` on; the last may be short (rule R191). -/
def gctrBlocks (k : Block) : Nat → Block → Bytes → Bytes
  | 0, _, _ => []
  | n + 1, cb, x => xorLeading (x.take 16) (aes k cb).bytes ++ gctrBlocks k n (inc32 cb) (x.drop 16)

/-- `GCTR(K, ICB, X)` with `ceil(|X| / 16)` blocks (rule R191). -/
def gctr (k icb : Block) (x : Bytes) : Bytes := gctrBlocks k ((x.length + 15) / 16) icb x

/-- `pad16(X)`: the fewest zero bytes that make the length a multiple of 16 (rule R192). -/
def pad16 (x : Bytes) : Bytes := x ++ List.replicate ((16 - x.length % 16) % 16) 0#8

/-- A block as a vector of 128 bits, `x0` the most significant bit of byte 0 (rule R193); `x_i` is `getMsbD i`. -/
def blockBits (x : Block) : BitVec 128 := BitVec.ofNat 128 (intBE x.bytes)

/-- The block of a vector of 128 bits. -/
def bitsBlock (v : BitVec 128) : Block := FixedBytes.ofNat 16 v.toNat

/-- `R`: the bits 11100001 and then 120 zeros (rule R194). -/
def gfPoly : BitVec 128 := 0xE1000000000000000000000000000000#128

/-- The update of `V` in rule R194: one place to the right, and `⊕ R` if the last bit was 1. -/
def gfShift (v : BitVec 128) : BitVec 128 := if v.getLsbD 0 then (v >>> 1) ^^^ gfPoly else v >>> 1

/-- `Z` and `V` of rule R194 after the turns `i = 0` to `n - 1`. -/
def gfSteps (x y : BitVec 128) : Nat → BitVec 128 × BitVec 128
  | 0 => (0#128, y)
  | n + 1 =>
    let zv := gfSteps x y n
    (if x.getMsbD n then zv.1 ^^^ zv.2 else zv.1, gfShift zv.2)

/-- The product in GF(2^128), on bit vectors (rule R194). -/
def gfMul (x y : BitVec 128) : BitVec 128 := (gfSteps x y 128).1

/-- `X • Y`, the product of two blocks (rule R194). -/
def blockMul (x y : Block) : Block := bitsBlock (gfMul (blockBits x) (blockBits y))

/-- `n` turns of the loop of rule R195 from the accumulator `y` on. -/
def ghashBlocks (h : Block) : Nat → Block → Bytes → Block
  | 0, y, _ => y
  | n + 1, y, x => ghashBlocks h n (blockMul (y.xor (.ofBytes 16 (x.take 16))) h) (x.drop 16)

/-- `GHASH(H, X)` for `X` of whole blocks (rule R195). -/
def ghash (h : Block) (x : Bytes) : Block := ghashBlocks h (x.length / 16) (.zero 16) x

/-- `ghash_in(A, C)`: both padded, then their lengths in bits as big-endian 64-bit integers (rule R196). -/
def ghashIn (a c : Bytes) : Bytes :=
  pad16 a ++ pad16 c ++ beBytes 8 (8 * a.length) ++ beBytes 8 (8 * c.length)

/-- The nonce `N = SYS_TITLE ‖ FRAME_CTR` (rules R80, R144). -/
def nonceOf (title : FixedBytes Config.titleLen) (ctr : FixedBytes Config.ctrLen) : FixedBytes Config.nonceLen :=
  title.append ctr

/-- `J0 = N ‖ 0x00 0x00 0x00 0x01` (rules R81, R144). -/
def preCounter (nonce : FixedBytes Config.nonceLen) : Block :=
  nonce.append (⟨[0x00#8, 0x00#8, 0x00#8, 0x01#8], rfl⟩ : FixedBytes 4)

/-- `H = AES(KEY, 0^128)` (rule R145). -/
def hashSubkey (key : Block) : Block := aes key (.zero 16)

/-- The sixteen bytes `AES(KEY, J0) ⊕ S` with `S = GHASH(H, ghash_in(AAD, C))` (rules R145, R146). -/
def fullTag (key : Block) (nonce : FixedBytes Config.nonceLen) (aad c : Bytes) : Block :=
  (aes key (preCounter nonce)).xor (ghash (hashSubkey key) (ghashIn aad c))

/-- `T'`: the first `t` bytes of the full tag (rule R146). -/
def expectedTag (key : Block) (nonce : FixedBytes Config.nonceLen) (aad c : Bytes) (t : Nat) : Bytes :=
  (fullTag key nonce aad c).bytes.take t

/-- `P = GCTR(KEY, inc32(J0), C)` (rule R147). -/
def gcmStream (key : Block) (nonce : FixedBytes Config.nonceLen) (c : Bytes) : Bytes :=
  gctr key (inc32 (preCounter nonce)) c

/-- Authenticated decryption of the span `C ‖ T` (rules R142, R143, R146, R147): the length first, then the tag,
and a plaintext only if both are good. -/
def authDecrypt (t : Nat) (aad : Bytes) (key : Block) (nonce : FixedBytes Config.nonceLen) (span : Bytes) :
    Except DecryptCause Bytes :=
  if span.length < t then .error .len
  else
    let c := span.take (span.length - t)
    let tag := span.drop (span.length - t)
    if expectedTag key nonce aad c t = tag then .ok (gcmStream key nonce c) else .error .tag

end Sys2Proof.Machine
end

