-- ==== Sys2Proof/Machine/Flags.lean ====
section
/-! DEFINITION. The status bits, their codes and the word `STATUS` (10_state.md rules R21, R23, R27, R31 to R34). -/

namespace Sys2Proof.Machine

/-- The first byte of `APDU_TAG` (rule R5). -/
def apduTag0 : Byte := 0x0F#8
/-- The second byte of `APDU_TAG` (rule R5). -/
def apduTag1 : Byte := 0x80#8

/-- `GETRESP` of a released APDU: at least two bytes, and the first two are 0x0F 0x80 (rules R27, R82, R140). -/
def getrespOf (p : Bytes) : Bool := decide (2 ≤ p.length) && p[0]? == some apduTag0 && p[1]? == some apduTag1

/-- The 3-bit code of `PHASE` (rule R21). -/
def Phase.code : Phase → BitVec 3
  | .idle => 0#3
  | .loaded => 1#3
  | .envelope => 2#3
  | .done => 3#3
  | .recover => 4#3

/-- The 3-bit code of `ERR` (rule R31). -/
def ErrClass.code : ErrClass → BitVec 3
  | .none => 0#3
  | .frameInvalid => 1#3
  | .decryptLen => 2#3
  | .decryptTag => 3#3

/-- The 3-bit code of `CSTAT` (rule R32). -/
def CStat.code : CStat → BitVec 3
  | .ok => 0#3
  | .unknownOp => 1#3
  | .badLength => 2#3
  | .seq => 3#3
  | .nokey => 4#3

/-- What a refusal writes to `CSTAT` (rule R212). -/
def RefuseCause.cstat : RefuseCause → CStat
  | .unknownOp => .unknownOp
  | .badLength => .badLength
  | .seq => .seq
  | .nokey => .nokey

/-- The `ERR` class of an error (rule R211). -/
def CycleError.errClass : CycleError → ErrClass
  | .frameInvalid => .frameInvalid
  | .decryptError .len => .decryptLen
  | .decryptError .tag => .decryptTag

/-- `KEY_VALID` (rule R23). -/
def State.keyValid (s : State) : Bool := s.key.isSome

/-- `WIN_VALID` (rule R34). -/
def State.winValid (s : State) : Bool := decide (s.phase = .loaded) || decide (s.phase = .envelope)

/-- `ENV_VALID` (rule R34). -/
def State.envValid (s : State) : Bool := decide (s.phase = .envelope) || decide (s.phase = .done)

/-- `APDU_VALID` (rule R34). -/
def State.apduValid (s : State) : Bool := decide (s.phase = .done)

/-- `STATUS`, register 0, from bit 15 down to bit 0; bits 15, 11 and 7 read 0 (rule R33, U9). -/
def State.status (s : State) : BitVec 16 :=
  0#1 ++ s.cstat.code ++ 0#1 ++ s.err.code ++ 0#1 ++ BitVec.ofBool s.getresp ++ BitVec.ofBool s.apduValid ++
    BitVec.ofBool s.envValid ++ BitVec.ofBool s.keyValid ++ s.phase.code

end Sys2Proof.Machine
end

