-- ==== Sys2Proof/Machine/Operands.lean ====
section
/-! DEFINITION. The operands of the commands: the operand bytes of `LDKEY` and `LDWIN` (30_encoding.md rule R73), and
the parts of the window that `SPLIT` and `DECRYPT` read (20_memory.md rule R55, 41_splitter.md rules R121 to R124). -/

namespace Sys2Proof.Machine

/-- `START_BYTE` (rule R5). -/
def startByte : Byte := 0x68#8
/-- `OFF_LEN0` (rule R5). -/
abbrev offLen0 : Nat := 1
/-- `OFF_LEN1` (rule R5). -/
abbrev offLen1 : Nat := 2
/-- The offset of the second marker (rule R55). -/
abbrev offMarker2 : Nat := 3
/-- `OFF_TITLE` (rule R5). -/
abbrev offTitle : Nat := 11
/-- `OFF_CTR` (rule R5). -/
abbrev offCtr : Nat := 22
/-- `OFF_CT` (rule R5). -/
abbrev offCt : Nat := 26
/-- `FRAME_OVERHEAD` (rule R5). -/
abbrev frameOverhead : Nat := 6

/-- The operand of `LDKEY` (`n = 16`) and `LDWIN` (`n = 282`): register byte `i` is operand byte `i` (rule R73); no
value where the length is another. -/
def operandOf (n : Nat) (data : Bytes) : Option (FixedBytes n) :=
  if h : data.length = n then some ⟨data, h⟩ else none

/-- `WIN[i]` (rule R24). -/
def windowByte (w : FixedBytes Config.windowLen) (i : Nat) (h : i < Config.windowLen := by decide) : Byte :=
  w.get ⟨i, h⟩

/-- `MemRead(addr, n)` (rule R8): `n` window bytes from `addr` on, in window order. Rule R62: no access the block
makes leaves the window (26 + 255 is still within 282). -/
def memRead (w : FixedBytes Config.windowLen) (addr n : Nat) : Bytes := (w.bytes.drop addr).take n

/-- `valid(W)`: the three comparisons of rule R121, and no other (rule R126). -/
def validWindow (w : FixedBytes Config.windowLen) : Bool :=
  windowByte w 0 == startByte && windowByte w offLen0 == windowByte w offLen1 && windowByte w offMarker2 == startByte

/-- `span_end = 6 + frame_len`, formed without wrapping (rules R78, R128). -/
def spanEnd (frameLen : Byte) : Nat := frameOverhead + frameLen.toNat

/-- `ct_len(b)` (rules R78, R124). -/
def ctLenOf (frameLen : Byte) : Nat := if spanEnd frameLen > offCt then spanEnd frameLen - offCt else 0

/-- The envelope of a window (rules R78, R122 to R124): offsets 0..3, byte 1, 11..18, 22..25 and the span's length.
Nothing else of the window is examined (rule R83). -/
def envelopeOf (w : FixedBytes Config.windowLen) : Envelope where
  mbusStart := w.slice 0 Config.startLen
  frameLen  := windowByte w offLen0
  sysTitle  := w.slice offTitle Config.titleLen
  frameCtr  := w.slice offCtr Config.ctrLen
  ctLen     := BitVec.ofNat 8 (ctLenOf (windowByte w offLen0))

/-- The ciphertext span `X = WIN[26..26+CT_LEN)` (rules R79, R141). -/
def spanOf (w : FixedBytes Config.windowLen) (ctLen : BitVec 8) : Bytes := memRead w offCt ctLen.toNat

end Sys2Proof.Machine
end

