-- ==== Sys2Proof/Machine/Ops.lean ====
section
/-! DEFINITION. The shared operations on the state: refusing and accepting a command, ending a cycle, raising an
error (the block's taking of an exception) and coming back from it, writing the buffers, emitting, and reset. -/

namespace Sys2Proof.Machine

/-- `refuse c`: `CSTAT <- c` and nothing else (rule R212). -/
def State.refuse (s : State) (c : RefuseCause) : State := { s with cstat := c.cstat }

/-- `CSTAT <- OK`: the command is accepted (rule R32). -/
def State.accept (s : State) : State := { s with cstat := .ok }

/-- `end_cycle` (rule R40). -/
def State.endCycle (s : State) : State :=
  { s with
    win := none, mbusStart := none, frameLen := none, sysTitle := none, frameCtr := none, ctLen := none
    apdu := none, apduLen := none, getresp := false }

/-- The phase an error leads to (rule R214). -/
def CycleError.nextPhase : CycleError → Phase
  | .frameInvalid => .recover
  | .decryptError _ => .idle

/-- TAKING AN EXCEPTION: `raise E` ends the cycle, sets `ERR` and moves `PHASE`; nothing is saved (rules R125, R149,
R214). -/
def State.raise (s : State) (e : CycleError) : State :=
  { s.endCycle with err := e.errClass, phase := e.nextPhase }

/-- `emit e`: append to the output trace (rules R8, R37). -/
def State.emit (s : State) (e : OutEvent) : State := { s with out := s.out ++ [e] }

/-- THE WAY BACK from `FrameInvalid`: the effect of `TEXP`, which emits `ResyncReq` and rests in IDLE; `ERR` and
`CSTAT` stay (rules R106, R215). -/
def State.endPause (s : State) : State := { s.emit .resyncReq with phase := .idle }

/-- `KEY <- k` (rule R100). -/
def State.storeKey (s : State) (k : FixedBytes Config.keyLen) : State := { s with key := some k }

/-- The beginning of a cycle: the old one ends, the window is stored, `ERR` is cleared (rule R102). -/
def State.beginCycle (s : State) (w : FixedBytes Config.windowLen) : State :=
  { s.endCycle with win := some w, err := .none, phase := .loaded }

/-- The abandoning of a cycle: `end_cycle`, `ERR <- NONE`, `PHASE <- IDLE` (rule R104). -/
def State.abandonCycle (s : State) : State := { s.endCycle with err := .none, phase := .idle }

/-- The five envelope registers are written and `PHASE <- ENVELOPE` (rule R120). -/
def State.storeEnvelope (s : State) (e : Envelope) : State :=
  { s with
    mbusStart := some e.mbusStart, frameLen := some e.frameLen, sysTitle := some e.sysTitle
    frameCtr := some e.frameCtr, ctLen := some e.ctLen, phase := .envelope }

/-- The release of an APDU: `APDU`, `APDU_LEN` and `GETRESP` are written, the window is dropped, `PHASE <- DONE`; the
envelope registers stay (rules R140, R148). -/
def State.releaseApdu (s : State) (p : Bytes) : State :=
  { s with
    apdu := some p, apduLen := some (BitVec.ofNat 8 p.length), getresp := getrespOf p, win := none, phase := .done }

/-- The reset input: every row of the table of rule R39; `OUT` is no hardware state and stays (rule R37), and what the
agents do after the reset stays too (rule R250). -/
def State.applyReset (s : State) : State := { State.reset with out := s.out, inputs := s.inputs }

/-- The canonical form of the block's byte buffers. `KEY`, `WIN` and the byte-string registers have their length by
their type; what is left to say is that the APDU and `APDU_LEN` come and go together and agree, and that the APDU is
at most 231 bytes (rule R26). -/
def Memory.wf (s : State) : Bool :=
  match s.apdu, s.apduLen with
  | none, none => true
  | some p, some n => n.toNat == p.length && decide (p.length ≤ 231)
  | _, _ => false

end Sys2Proof.Machine
end

