-- ==== Sys2Proof/Machine/Decryptor.lean ====
section
/-! DEFINITION. `DECRYPT`, the AES-GCM authenticated decryptor (42_decryptor.md). -/

namespace Sys2Proof.Machine

/-- What `DECRYPT` does with its four inputs (rules R140, R141) under given parameters: the APDU is released only
after the tag has verified (rule R146); otherwise `raise DecryptError` (rule R149). -/
def decryptCycle (t : Config.TagLen) (a : Config.Aad) (key : FixedBytes Config.keyLen)
    (title : FixedBytes Config.titleLen) (ctr : FixedBytes Config.ctrLen) (span : Bytes) (s : State) : State :=
  match authDecrypt t.len a.bytes key (nonceOf title ctr) span with
  | .ok p => s.accept.releaseApdu p
  | .error cause => s.accept.raise (.decryptError cause)

/-- `DECRYPT` for given values of the parameters `TAG_LEN` and `AAD` (rules R6, R140): the phase is tested first, then
the key (rule R213). A `⊥` window or envelope register in phase ENVELOPE, which no reachable state has, stops
(notes/assumptions/8.md). -/
def decryptWith (t : Config.TagLen) (a : Config.Aad) (s : State) : Result :=
  if s.phase = .envelope then
    match s.key with
    | none => .next (s.refuse .nokey)
    | some key =>
      match s.win, s.ctLen, s.sysTitle, s.frameCtr with
      | some w, some n, some title, some ctr => .next (decryptCycle t a key title ctr (spanOf w n) s)
      | _, _, _, _ => .fault .readsNoValue
  else .next (s.refuse .seq)

/-- `DECRYPT` (rule R140) with the hardware's own `TAG_LEN` and `AAD`. -/
def execDecrypt (s : State) : Result := decryptWith Config.tagLen Config.aad s

end Sys2Proof.Machine
end

