-- ==== Sys2Proof/Machine/HostOps.lean ====
section
/-! DEFINITION. The host operations `LDKEY`, `LDWIN` and `CLR` and the timer event `TEXP` (40_host_ops.md). -/

namespace Sys2Proof.Machine

/-- `LDKEY` (rule R100). An operand of the wrong length, which no decoded frame has, is refused as rule R212 refuses
its frame (notes/assumptions/9.md). -/
def execLdkey (data : Bytes) (s : State) : Result :=
  match operandOf Config.keyLen data with
  | none => .next (s.refuse .badLength)
  | some k =>
    if s.phase = .idle then .next (s.storeKey k).accept
    else .next (s.refuse .seq)

/-- `LDWIN` (rule R102). An operand of the wrong length, which no decoded frame has, is refused as rule R212 refuses
its frame (notes/assumptions/9.md). -/
def execLdwin (data : Bytes) (s : State) : Result :=
  match operandOf Config.windowLen data with
  | none => .next (s.refuse .badLength)
  | some w =>
    if s.phase = .recover then .next (s.refuse .seq)
    else .next (s.beginCycle w).accept

/-- `CLR` (rule R104). -/
def execClr (s : State) : Result :=
  if s.phase = .recover then .next (s.refuse .seq)
  else .next s.abandonCycle.accept

/-- `TEXP`, the step of the pause timer: enabled exactly in RECOVER, and no step anywhere else (rule R106,
notes/assumptions/2.md). -/
def timerExpiry (s : State) : Result :=
  if s.phase = .recover then .next s.endPause
  else .fault .timerNotEnabled

end Sys2Proof.Machine
end

