-- ==== Sys2Proof/Machine/Splitter.lean ====
section
/-! DEFINITION. `SPLIT`, the M-Bus frame splitter (41_splitter.md). -/

namespace Sys2Proof.Machine

/-- `SPLIT` (rule R120): the envelope of a valid window, or `raise FrameInvalid` (rule R125). A `⊥` window in phase
LOADED, which no reachable state has, stops (notes/assumptions/8.md). -/
def execSplit (s : State) : Result :=
  if s.phase = .loaded then
    match s.win with
    | none => .fault .readsNoValue
    | some w =>
      if validWindow w then .next (s.accept.storeEnvelope (envelopeOf w))
      else .next (s.accept.raise .frameInvalid)
  else .next (s.refuse .seq)

end Sys2Proof.Machine
end

