-- ==== Sys2Proof/Machine/Dispatch.lean ====
section
/-! DEFINITION. From each command to its meaning (30_encoding.md rule R71). -/

namespace Sys2Proof.Machine

/-- One command's effect on the state. -/
def exec (i : Instr) (s : State) : Host.Outcome State Fault Refusal :=
  match i with
  | .ldkey data => Sys2Proof.Machine.execLdkey data s
  | .ldwin data => Sys2Proof.Machine.execLdwin data s
  | .split => Sys2Proof.Machine.execSplit s
  | .decrypt => Sys2Proof.Machine.execDecrypt s
  | .clr => Sys2Proof.Machine.execClr s

end Sys2Proof.Machine
end

