-- ==== Sys2Proof/Machine/Sequencer.lean ====
section
/-! DEFINITION. The agents' steps (00_scope.md rule R10, 20_memory.md rules R58, R59, 70_reset_and_hazards.md rule
R250): the host's frame, the timer's event, the reset, and what happens when no agent has anything left to do. -/

namespace Sys2Proof.Machine

/-- The refusal of a frame that is no command (rules R72, R74). -/
def decodeRefusal : DecodeError → RefuseCause
  | .unknownOp => .unknownOp
  | .badLength => .badLength

/-- The host presents a frame: a command is performed, anything else is refused (rule R72). -/
def frameStep (f : Bytes) (s : State) : Result :=
  match decode f with
  | .ok i => exec i s
  | .error e => .next (s.refuse (decodeRefusal e))

/-- The reset input is asserted, in any phase (rule R250). -/
def resetStep (s : State) : Result := .next s.applyReset

/-- No input is left. In RECOVER the pause timer, which is live, takes its step (rule R106); in any other phase the
block waits for the host and never halts (rule R263). See notes/assumptions/3.md. -/
def quietStep (s : State) : Result :=
  if s.phase = .recover then timerExpiry s else .next s

/-- One agent's step (rule R10). -/
def inputStep (e : Input) (s : State) : Result :=
  match e with
  | .frame f => frameStep f s
  | .timer => timerExpiry s
  | .reset => resetStep s

end Sys2Proof.Machine
end

