-- ==== Sys2Proof/Machine/Step.lean ====
section
/-! DEFINITION. One step of the machine, and how a word of the opcode table is put where the next step takes it. -/

namespace Sys2Proof.Machine

/-- The next step of the total order of rule R59: the soonest input is taken off the list and its agent's atomic step
is performed. -/
def step (s : State) : Host.Outcome State Fault Refusal :=
  match s.inputs with
  | [] => quietStep s
  | e :: rest => inputStep e { s with inputs := rest }

/-- `s` with the frame of a word of the opcode table as the next thing the host presents. -/
def State.withFetchWord (s : State) (nbits w : Nat) : State :=
  { s with inputs := .frame (tableFrame nbits w) :: s.inputs }

end Sys2Proof.Machine
end

