-- ==== Sys2Proof/Machine/View.lean ====
section
/-! DEFINITION. What the host sees (10_state.md rule R35, 20_memory.md rules R54, R57, R63). Reading is a function of
the state and changes nothing. -/

namespace Sys2Proof.Machine

/-- The host's registers (rule R63). -/
inductive HostReg where
  | status | mbusStart | frameLen | sysTitle | frameCtr | ctLen | apduLen | apdu
deriving DecidableEq, Repr

/-- The register numbers of rule R63. -/
def HostReg.number : HostReg → Nat
  | .status => 0
  | .mbusStart => 1
  | .frameLen => 2
  | .sysTitle => 3
  | .frameCtr => 4
  | .ctLen => 5
  | .apduLen => 6
  | .apdu => 7

/-- What one read returns: a whole register, or the whole APDU (rule R56). -/
inductive RegValue where
  | word (v : BitVec 16)
  | byte (v : Byte)
  | bytes (v : Bytes)
deriving DecidableEq, Repr

/-- The host view (rule R35): a field that is not in the view is `none`, never zero (U11). `KEY` and `WIN` are not
in it. -/
structure View where
  status    : BitVec 16
  mbusStart : Option (FixedBytes Config.startLen)
  frameLen  : Option (BitVec 8)
  sysTitle  : Option (FixedBytes Config.titleLen)
  frameCtr  : Option (FixedBytes Config.ctrLen)
  ctLen     : Option (BitVec 8)
  apduLen   : Option (BitVec 8)
  apdu      : Option Bytes
  out       : List OutEvent
deriving DecidableEq, Repr

/-- The view of a state: the envelope registers when `ENV_VALID`, the APDU and its length when `APDU_VALID`, `STATUS`
and `OUT` always (rule R35). -/
def State.view (s : State) : View where
  status    := s.status
  mbusStart := if s.envValid then s.mbusStart else none
  frameLen  := if s.envValid then s.frameLen else none
  sysTitle  := if s.envValid then s.sysTitle else none
  frameCtr  := if s.envValid then s.frameCtr else none
  ctLen     := if s.envValid then s.ctLen else none
  apduLen   := if s.apduValid then s.apduLen else none
  apdu      := if s.apduValid then s.apdu else none
  out       := s.out

/-- A host read of a register of the view; `none` where the register is not in the view (rules R35, R63). -/
def View.read (v : View) : HostReg → Option RegValue
  | .status => some (.word v.status)
  | .mbusStart => v.mbusStart.map fun b => .bytes b.bytes
  | .frameLen => v.frameLen.map .byte
  | .sysTitle => v.sysTitle.map fun b => .bytes b.bytes
  | .frameCtr => v.frameCtr.map fun b => .bytes b.bytes
  | .ctLen => v.ctLen.map .byte
  | .apduLen => v.apduLen.map .byte
  | .apdu => v.apdu.map .bytes

end Sys2Proof.Machine
end

