-- ==== Sys2Proof/Machine/Asm.lean ====
section
/-! DEFINITION. The assembler forms of 30_encoding.md rules R84 and R85: program listings, their pseudo-instructions,
the inputs they stand for, and the source's two contracts as readings of a state. The block itself takes bytes; only
listings are text. -/

namespace Sys2Proof.Machine

/-- One item of a listing (rules R84, R85). -/
inductive AsmItem where
  /-- A command. -/
  | command (i : Instr)
  /-- `TEXP`: the point where the timer's event occurs; no command. -/
  | texp
  /-- `READ <register>`: a host read; it encodes to nothing. -/
  | read (r : HostReg)
  /-- `CYCLE <window>`: `LDWIN <window>`, `SPLIT`, `DECRYPT` (rule R85). -/
  | cycle (window : Bytes)
deriving DecidableEq, Repr

/-- What an item makes the agents do (rules R84, R85). -/
def AsmItem.inputs : AsmItem → List Input
  | .command i => [.frame (encode i)]
  | .texp => [.timer]
  | .read _ => []
  | .cycle w => [.frame (encode (.ldwin w)), .frame (encode .split), .frame (encode .decrypt)]

/-- What a listing makes the agents do, in its order. -/
def listingInputs (p : List AsmItem) : List Input := p.flatMap AsmItem.inputs

/-- A listing without its comments: from a semicolon to the end of the line (rule R84). -/
def withoutComments (inComment : Bool) : List Char → List Char
  | [] => []
  | c :: rest =>
    if c = '\n' then c :: withoutComments false rest
    else if inComment || c = ';' then withoutComments true rest
    else c :: withoutComments false rest

/-- The words of a listing, split at spaces, tabs and line ends; `word` is the word being read, backwards. -/
def splitWords (word : List Char) : List Char → List (List Char)
  | [] => if word.isEmpty then [] else [word.reverse]
  | c :: rest =>
    if c = ' ' || c = '\t' || c = '\n' || c = '\r' then
      (if word.isEmpty then [] else [word.reverse]) ++ splitWords [] rest
    else splitWords (c :: word) rest

/-- The words that begin an item (rules R84, R85). -/
inductive AsmWord where
  | ldkey | ldwin | split | decrypt | clr | texp | read | cycle
deriving DecidableEq, Repr

/-- Which word begins an item; no such word consists of hex digits only. -/
def asmWordOf (t : List Char) : Option AsmWord :=
  if t = "LDKEY".toList then some .ldkey
  else if t = "LDWIN".toList then some .ldwin
  else if t = "SPLIT".toList then some .split
  else if t = "DECRYPT".toList then some .decrypt
  else if t = "CLR".toList then some .clr
  else if t = "TEXP".toList then some .texp
  else if t = "READ".toList then some .read
  else if t = "CYCLE".toList then some .cycle
  else none

/-- The register names of rule R63. -/
def hostRegOf (t : List Char) : Option HostReg :=
  if t = "STATUS".toList then some .status
  else if t = "MBUS_START".toList then some .mbusStart
  else if t = "FRAME_LEN".toList then some .frameLen
  else if t = "SYS_TITLE".toList then some .sysTitle
  else if t = "FRAME_CTR".toList then some .frameCtr
  else if t = "CT_LEN".toList then some .ctLen
  else if t = "APDU_LEN".toList then some .apduLen
  else if t = "APDU".toList then some .apdu
  else none

/-- The items of a listing's words, each with the words of its operand, and the words left over in front of the
first item. -/
def groupWords : List (List Char) → List (List Char) × List (AsmWord × List (List Char))
  | [] => ([], [])
  | t :: rest =>
    let (operand, items) := groupWords rest
    match asmWordOf t with
    | some k => ([], (k, operand) :: items)
    | none => (t :: operand, items)

/-- The windows defined beside a program, by name (rule R84, `LDWIN @name`). -/
abbrev WindowNames := List (List Char × Bytes)

/-- An operand in hex, in which spaces and line breaks are ignored, or `@name` (rule R84). -/
def asmBytes (names : WindowNames) (operand : List (List Char)) : Option Bytes :=
  match operand with
  | [('@' :: name)] => names.lookup name
  | ws => parseHex ws.flatten

/-- One item from its word and operand; `none` where the operand does not fit. -/
def asmItemOf (names : WindowNames) : AsmWord × List (List Char) → Option AsmItem
  | (.ldkey, ws) => (parseHex ws.flatten).bind fun b => if b.length = Config.keyLen then some (.command (.ldkey b)) else none
  | (.ldwin, ws) =>
    (asmBytes names ws).bind fun b => if b.length = Config.windowLen then some (.command (.ldwin b)) else none
  | (.split, []) => some (.command .split)
  | (.decrypt, []) => some (.command .decrypt)
  | (.clr, []) => some (.command .clr)
  | (.texp, []) => some .texp
  | (.read, [r]) => (hostRegOf r).map .read
  | (.cycle, ws) => (asmBytes names ws).bind fun b => if b.length = Config.windowLen then some (.cycle b) else none
  | _ => none

/-- A listing as items; `none` where a line is none of the forms of rules R84 and R85. -/
def assemble (names : WindowNames) (text : List Char) : Option (List AsmItem) :=
  match groupWords (splitWords [] (withoutComments false text)) with
  | ([], items) => items.mapM (asmItemOf names)
  | _ => none

/-- The line of a command (rule R84). -/
def renderInstr : Instr → List Char
  | .ldkey data => "LDKEY ".toList ++ hexText data
  | .ldwin data => "LDWIN ".toList ++ hexText data
  | .split => "SPLIT".toList
  | .decrypt => "DECRYPT".toList
  | .clr => "CLR".toList

/-- The result of the contract `split(w)`, read after `LDWIN w` and `SPLIT`: the envelope if `PHASE` is ENVELOPE,
`FrameInvalid` if `ERR` is FRAME_INVALID (rule R85). -/
def splitContract (s : State) : Option (Except CycleError Envelope) :=
  if s.phase = .envelope then
    match s.mbusStart, s.frameLen, s.sysTitle, s.frameCtr, s.ctLen with
    | some m, some l, some t, some c, some n => some (.ok ⟨m, l, t, c, n⟩)
    | _, _, _, _, _ => none
  else if s.err = .frameInvalid then some (.error .frameInvalid)
  else none

/-- The result of the contract `decrypt(...)`, read after `DECRYPT`: the APDU if `PHASE` is DONE, `DecryptError` if
`ERR` is DECRYPT_LEN or DECRYPT_TAG (rule R85). -/
def decryptContract (s : State) : Option (Except CycleError Bytes) :=
  if s.phase = .done then s.apdu.map .ok
  else
    match s.err with
    | .decryptLen => some (.error (.decryptError .len))
    | .decryptTag => some (.error (.decryptError .tag))
    | _ => none

end Sys2Proof.Machine
end

