-- ==== Sys2Proof/Safety.lean ====
section
/-! DEFINITION. The terms claims use: the state invariant of rule R34 with the register contents of rules R25 to R27,
the phase table of rule R22, what a window's examined bytes are (rules R55, R83), when two states differ in the key
only (rule R23) or in unexamined window bytes only (rule R83), and the sealing of a plaintext into a window, which only claims about `DECRYPT` need. -/

namespace Sys2Proof.Machine

/-- The state invariant: rule R34, and the register contents that rules R25, R26, R27 and R56 state. -/
structure StateInv (s : State) : Prop where
  /-- `WIN` holds a value exactly when `WIN_VALID`. -/
  win_valid : s.win.isSome = s.winValid
  /-- The envelope registers hold values exactly when `ENV_VALID`. -/
  mbusStart_valid : s.mbusStart.isSome = s.envValid
  frameLen_valid : s.frameLen.isSome = s.envValid
  sysTitle_valid : s.sysTitle.isSome = s.envValid
  frameCtr_valid : s.frameCtr.isSome = s.envValid
  ctLen_valid : s.ctLen.isSome = s.envValid
  /-- The APDU and its length hold values exactly when `APDU_VALID`. -/
  apdu_valid : s.apdu.isSome = s.apduValid
  apduLen_valid : s.apduLen.isSome = s.apduValid
  /-- In RECOVER the error is FRAME_INVALID. -/
  recover_err : s.phase = .recover → s.err = .frameInvalid
  /-- In LOADED, ENVELOPE and DONE there is no error. -/
  active_err : s.phase = .loaded ∨ s.phase = .envelope ∨ s.phase = .done → s.err = .none
  /-- A `DecryptError` rests in IDLE. -/
  decryptErr_idle : s.err = .decryptLen ∨ s.err = .decryptTag → s.phase = .idle
  /-- Rule R25: a stored envelope passed the three tests, and `CT_LEN = max(0, FRAME_LEN - 20)`. -/
  envelope_good : ∀ m l n, s.mbusStart = some m → s.frameLen = some l → s.ctLen = some n →
    m.bytes = [0x68#8, l, l, 0x68#8] ∧ n.toNat = l.toNat - 20
  /-- In ENVELOPE the window is still held, is valid, and the registers are its fields (rules R34, R120, R59 (b)). -/
  envelope_of_window : ∀ w, s.phase = .envelope → s.win = some w →
    validWindow w = true ∧ s.mbusStart = some (envelopeOf w).mbusStart ∧ s.frameLen = some (envelopeOf w).frameLen ∧
      s.sysTitle = some (envelopeOf w).sysTitle ∧ s.frameCtr = some (envelopeOf w).frameCtr ∧
      s.ctLen = some (envelopeOf w).ctLen
  /-- Rules R26, R56: `APDU_LEN` is the APDU's length, at most `235 - TAG_LEN`, and `CT_LEN - TAG_LEN`. -/
  apdu_length : ∀ p k n, s.apdu = some p → s.apduLen = some k → s.ctLen = some n →
    k.toNat = p.length ∧ p.length + Config.tagLen.len ≤ 235 ∧ p.length + Config.tagLen.len = n.toNat
  /-- Rule R27: `GETRESP` says how the APDU begins, and is 0 without an APDU. -/
  getresp_means : s.getresp = (s.apdu.map getrespOf).getD false

/-- Whether `SPLIT` or `DECRYPT` finds its data good: "the envelope is valid", "length and tag are good"
(rule R22). -/
def dataGood (i : Instr) (s : State) : Bool :=
  match i with
  | .split => (s.win.map validWindow).getD false
  | .decrypt =>
    match s.key, s.win, s.ctLen, s.sysTitle, s.frameCtr with
    | some key, some w, some n, some title, some ctr =>
      match authDecrypt Config.tagLen.len Config.aad.bytes key (nonceOf title ctr) (spanOf w n) with
      | .ok _ => true
      | .error _ => false
    | _, _, _, _, _ => false
  | _ => true

/-- The command columns of the table of rule R22: the phase after an accepted command, `none` for "refused". The
missing key is the table's NOKEY case: it is no SEQ refusal and the phase stays. -/
def phaseTable (p : Phase) (i : Instr) (good hasKey : Bool) : Option Phase :=
  match p, i with
  | .idle, .ldkey _ => some .idle
  | .idle, .ldwin _ => some .loaded
  | .idle, .clr => some .idle
  | .loaded, .ldwin _ => some .loaded
  | .loaded, .split => some (if good then .envelope else .recover)
  | .loaded, .clr => some .idle
  | .envelope, .ldwin _ => some .loaded
  | .envelope, .decrypt => some (if hasKey then (if good then .done else .idle) else .envelope)
  | .envelope, .clr => some .idle
  | .done, .ldwin _ => some .loaded
  | .done, .clr => some .idle
  | _, _ => none

/-- The offsets of the window that the block examines when byte 1 is `b` (rules R55, R83). -/
def examinedOffset (b : Byte) (i : Nat) : Bool :=
  decide (i ≤ 3) || (decide (11 ≤ i) && decide (i ≤ 18)) || (decide (22 ≤ i) && decide (i ≤ 25)) ||
    (decide (26 ≤ i) && decide (i < 6 + b.toNat))

/-- Two windows that agree on every examined byte. -/
def SameExamined (w w' : FixedBytes Config.windowLen) : Prop :=
  ∀ (i : Nat) (h : i < Config.windowLen), examinedOffset (windowByte w 1) i = true → windowByte w i h = windowByte w' i h

/-- Two states that differ at most in the bytes of a key that both hold or both lack (rule R23). -/
def SameButKeyBytes (s s' : State) : Prop := s' = { s with key := s'.key } ∧ s.key.isSome = s'.key.isSome

/-- The windows of two states: both absent, or equal on every examined byte. -/
def SameExaminedWin (o o' : Option (FixedBytes Config.windowLen)) : Prop := Option.Rel SameExamined o o'

/-- Two inputs of the agents: the same one, or two frames that load windows equal on every examined byte. -/
def SameExaminedInput (e e' : Input) : Prop :=
  e = e' ∨ ∃ w w' : FixedBytes Config.windowLen, SameExamined w w' ∧
    e = .frame (encode (.ldwin w.bytes)) ∧ e' = .frame (encode (.ldwin w'.bytes))

/-- Two states that differ at most in unexamined window bytes (rule R83): those of the windows they hold, and those of
the windows the host is still to load. -/
def SameButUnexamined (s s' : State) : Prop :=
  s' = { s with win := s'.win, inputs := s'.inputs } ∧ SameExaminedWin s.win s'.win ∧
    List.Forall₂ SameExaminedInput s.inputs s'.inputs

/-- Two outcomes of the same kind: next states that are so related, or the same stop. -/
def SameOutcome (R : State → State → Prop) : Result → Result → Prop
  | .next t, .next t' => R t t'
  | .fault r, .fault r' => r = r'
  | .refused r, .refused r' => r = r'
  | _, _ => False

/-- The three frames of one cycle, `LDWIN w`, `SPLIT`, `DECRYPT` (rule R85, `CYCLE`). -/
def cycleInputs (w : FixedBytes Config.windowLen) : List Input := (AsmItem.cycle w.bytes).inputs

/-- The span `C ‖ T` of a plaintext under the hardware's `TAG_LEN` and `AAD`: encryption, which the block does not do
and the vectors need (rule R4). -/
def sealedSpan (key : FixedBytes Config.keyLen) (title : FixedBytes Config.titleLen) (ctr : FixedBytes Config.ctrLen)
    (p : Bytes) : Bytes :=
  let c := gcmStream key (nonceOf title ctr) p
  c ++ expectedTag key (nonceOf title ctr) Config.aad.bytes c Config.tagLen.len

/-- A window with a good wrapper of declared length `l`, the given title, counter and span, the bytes `fillA` and
`fillB` at offsets 4..10 and 19..21, and `rest` after the span (rule R77). -/
def windowBytes (l : Byte) (fillA : FixedBytes 7) (title : FixedBytes Config.titleLen) (fillB : FixedBytes 3)
    (ctr : FixedBytes Config.ctrLen) (span rest : Bytes) : Bytes :=
  [0x68#8, l, l, 0x68#8] ++ fillA.bytes ++ title.bytes ++ fillB.bytes ++ ctr.bytes ++ span ++ rest

end Sys2Proof.Machine
end

