-- ==== Sys2Proof/Certificates/Slice0/Obligations.lean ====
section
/-! DEFINITION. The statements for the provers, in the order of OBLIGATIONS.json. -/

open Sys2Proof Sys2Proof.Machine

/-! ## Reset and the agents' steps -/

/-- R39: the reset input, in every state, leaves exactly the table, the timer stopped and `OUT` unchanged, and nothing
of the state before it but `OUT` (and what the agents do next) reaches the state after it. -/
def Obligations.ResetInputClearsEverything : Prop :=
  (∀ (s : State) (rest : List Input), s.inputs = .reset :: rest →
    ∃ t, step s = .next t ∧ t.phase = .idle ∧ t.key = none ∧ t.win = none ∧ t.mbusStart = none ∧ t.frameLen = none ∧
      t.sysTitle = none ∧ t.frameCtr = none ∧ t.ctLen = none ∧ t.apdu = none ∧ t.apduLen = none ∧ t.getresp = false ∧
      t.err = .none ∧ t.cstat = .ok ∧ t.status = 0x0000#16 ∧ timerExpiry t = .fault .timerNotEnabled ∧
      t.out = s.out ∧ t.inputs = rest) ∧
  (∀ (s s' : State) (rest : List Input), s.inputs = .reset :: rest → s'.inputs = .reset :: rest → s.out = s'.out →
    step s = step s')

/-- The state after reset is the table of R39 with an empty trace and no inputs; the last two are the model's choice
(log entry 12). -/
def Obligations.ResetStateIsTheTable : Prop :=
  State.reset = ⟨.idle, none, none, none, none, none, none, none, none, none, false, .none, .ok, [], []⟩ ∧
    State.reset.status = 0x0000#16

/-- A step runs the command that the presented frame decodes to, on the state with that frame taken off the list. -/
def Obligations.StepRunsDecodedFrame : Prop :=
  ∀ (s : State) (f : Bytes) (rest : List Input) (i : Instr), s.inputs = .frame f :: rest → decode f = .ok i →
    step s = exec i { s with inputs := rest }

/-- How the agents' inputs are taken (log entries 1 to 3): a timer input is `TEXP`, which ends the pause in RECOVER and
is no step anywhere else; without inputs the live timer acts in RECOVER and the block waits in every other phase. -/
def Obligations.TimerStepsOnlyInRecover : Prop :=
  (∀ (s : State) (rest : List Input), s.inputs = .timer :: rest → s.phase = .recover →
    step s = .next { s with inputs := rest, out := s.out ++ [.resyncReq], phase := .idle }) ∧
  (∀ (s : State) (rest : List Input), s.inputs = .timer :: rest → s.phase ≠ .recover →
    step s = .fault .timerNotEnabled) ∧
  (∀ s : State, s.inputs = [] → s.phase = .recover →
    step s = .next { s with out := s.out ++ [.resyncReq], phase := .idle }) ∧
  (∀ s : State, s.inputs = [] → s.phase ≠ .recover → step s = .next s)

/-! ## Encoding -/

/-- R74: the illegal opcodes, the empty frame and a wrong length are refused and change `CSTAT` only; every other
frame is one of the five commands. -/
def Obligations.IllegalFramesAreRefused : Prop :=
  ∀ (s : State) (f : Bytes) (rest : List Input), s.inputs = .frame f :: rest →
    (f = [] → step s = .next { s with inputs := rest, cstat := .unknownOp }) ∧
    (∀ op data, f = op :: data → (op = 0x00#8 ∨ 0x06 ≤ op.toNat) →
      step s = .next { s with inputs := rest, cstat := .unknownOp }) ∧
    (∀ op data, f = op :: data → 1 ≤ op.toNat → op.toNat ≤ 5 →
      data.length ≠ (if op.toNat = 1 then 16 else if op.toNat = 2 then 282 else 0) →
      step s = .next { s with inputs := rest, cstat := .badLength }) ∧
    (∀ op data, f = op :: data → 1 ≤ op.toNat → op.toNat ≤ 5 →
      data.length = (if op.toNat = 1 then 16 else if op.toNat = 2 then 282 else 0) →
      ∃ i, decode f = .ok i ∧ step s = exec i { s with inputs := rest })

/-- R72, R73: decoding tests the opcode first and the length second, and passes the operand bytes on unchanged and in
order into `KEY` and `WIN`. -/
def Obligations.DecodeFollowsTheTable : Prop :=
  decode [] = .error .unknownOp ∧
  (∀ op data, (op.toNat < 1 ∨ 5 < op.toNat) → decode (op :: data) = .error .unknownOp) ∧
  (∀ op data, 1 ≤ op.toNat → op.toNat ≤ 5 →
    data.length ≠ (if op.toNat = 1 then 16 else if op.toNat = 2 then 282 else 0) →
    decode (op :: data) = .error .badLength) ∧
  (∀ data : Bytes, data.length = 16 → decode (0x01#8 :: data) = .ok (.ldkey data)) ∧
  (∀ data : Bytes, data.length = 282 → decode (0x02#8 :: data) = .ok (.ldwin data)) ∧
  decode [0x03#8] = .ok .split ∧ decode [0x04#8] = .ok .decrypt ∧ decode [0x05#8] = .ok .clr ∧
  (∀ (s : State) (data : Bytes), data.length = 16 → s.phase = .idle →
    ∃ t, exec (.ldkey data) s = .next t ∧ t.key.map FixedBytes.bytes = some data) ∧
  (∀ (s : State) (data : Bytes), data.length = 282 → s.phase ≠ .recover →
    ∃ t, exec (.ldwin data) s = .next t ∧ t.win.map FixedBytes.bytes = some data)

/-- Decode and encode agree: a frame decodes to a command exactly when the command is well formed, with every operand
the encoding admits, and the frame is its encoding; so a command has one frame and a frame one meaning. -/
def Obligations.DecodeEncodeAgree : Prop :=
  ∀ (f : Bytes) (i : Instr), decode f = .ok i ↔ i.wellFormed = true ∧ encode i = f

/-- A few frames written out from the table of R71. -/
def Obligations.WrittenFramesDecode : Prop :=
  decode [0x03#8] = .ok .split ∧ decode [0x04#8] = .ok .decrypt ∧ decode [0x05#8] = .ok .clr ∧
    decode [0x01#8, 0#8, 1#8, 2#8, 3#8, 4#8, 5#8, 6#8, 7#8, 8#8, 9#8, 10#8, 11#8, 12#8, 13#8, 14#8, 15#8] =
      .ok (.ldkey [0#8, 1#8, 2#8, 3#8, 4#8, 5#8, 6#8, 7#8, 8#8, 9#8, 10#8, 11#8, 12#8, 13#8, 14#8, 15#8]) ∧
    decode [] = .error .unknownOp ∧ decode [0x03#8, 0x00#8] = .error .badLength

/-- R51: in hex text the pair for byte `i` stands at characters `2i` and `2i + 1`, high nibble first, and reading the
text back gives the bytes. -/
def Obligations.HexTextReadsBack : Prop :=
  ∀ x : Bytes, parseHex (hexText x) = some x ∧
    ∀ (i : Nat) (b : Byte), x[i]? = some b →
      (hexText x)[2 * i]? = some (hexDigit (b.toNat / 16)) ∧ (hexText x)[2 * i + 1]? = some (hexDigit (b.toNat % 16))

/-- The assembler line of every well-formed command assembles to that command (the forms of R84; the reader's
leniency is the model's choice, log entry 17). -/
def Obligations.AssembleReadsRenderedCommand : Prop :=
  ∀ i : Instr, i.wellFormed = true → assemble [] (renderInstr i) = some [.command i]

/-! ## The commands: results, completion and frames (each equation leaves every other field as it was) -/

/-- R100: `LDKEY` with any 16 bytes loads the key in IDLE and is refused in every other phase. -/
def Obligations.LdkeyLoadsKeyInIdle : Prop :=
  ∀ (k : FixedBytes 16) (s : State),
    encode (.ldkey k.bytes) = 0x01#8 :: k.bytes ∧ (encode (.ldkey k.bytes)).length = 17 ∧
    (∀ data : Bytes, data.length ≠ 16 → decode (0x01#8 :: data) = .error .badLength) ∧
    (s.phase = .idle → exec (.ldkey k.bytes) s = .next { s with key := some k, cstat := .ok }) ∧
    (s.phase ≠ .idle → exec (.ldkey k.bytes) s = .next { s with cstat := .seq })

/-- R102: `LDWIN` with any 282 bytes ends the cycle before it, stores the window and clears `ERR` in every phase but
RECOVER, where it is refused. -/
def Obligations.LdwinBeginsCycle : Prop :=
  ∀ (w : FixedBytes 282) (s : State),
    encode (.ldwin w.bytes) = 0x02#8 :: w.bytes ∧ (encode (.ldwin w.bytes)).length = 283 ∧
    (∀ data : Bytes, data.length ≠ 282 → decode (0x02#8 :: data) = .error .badLength) ∧
    (s.phase ≠ .recover → exec (.ldwin w.bytes) s = .next
      { s with win := some w, mbusStart := none, frameLen := none, sysTitle := none, frameCtr := none, ctLen := none,
               apdu := none, apduLen := none, getresp := false, err := .none, phase := .loaded, cstat := .ok }) ∧
    (s.phase = .recover → exec (.ldwin w.bytes) s = .next { s with cstat := .seq })

/-- R104: `CLR` ends the cycle, clears `ERR` and goes to IDLE, keeping the key, in every phase but RECOVER, where it is
refused. -/
def Obligations.ClrAbandonsCycle : Prop :=
  ∀ s : State,
    encode .clr = [0x05#8] ∧
    (s.phase ≠ .recover → exec .clr s = .next
      { s with win := none, mbusStart := none, frameLen := none, sysTitle := none, frameCtr := none, ctLen := none,
               apdu := none, apduLen := none, getresp := false, err := .none, phase := .idle, cstat := .ok }) ∧
    (s.phase = .recover → exec .clr s = .next { s with cstat := .seq })

/-- R121: the validity of a window is the three comparisons, and nothing else. -/
def Obligations.WindowValidityIsThreeComparisons : Prop :=
  ∀ w : FixedBytes 282, validWindow w = true ↔
    w.bytes[0]? = some 0x68#8 ∧ w.bytes[1]? = w.bytes[2]? ∧ w.bytes[3]? = some 0x68#8

/-- R122, R123, and the length of R124: `SPLIT` of a valid window in LOADED completes with the five fields at their offsets and the
span's length, the window kept, and every other field as it was. -/
def Obligations.SplitExtractsEnvelope : Prop :=
  ∀ (s : State) (w : FixedBytes 282), s.phase = .loaded → s.win = some w → validWindow w = true →
    ∃ e : Envelope,
      exec .split s = .next
        { s with mbusStart := some e.mbusStart, frameLen := some e.frameLen, sysTitle := some e.sysTitle,
                 frameCtr := some e.frameCtr, ctLen := some e.ctLen, phase := .envelope, cstat := .ok } ∧
      e.mbusStart.bytes = w.bytes.take 4 ∧ w.bytes[1]? = some e.frameLen ∧
      e.mbusStart.bytes = [0x68#8, e.frameLen, e.frameLen, 0x68#8] ∧
      e.sysTitle.bytes = (w.bytes.drop 11).take 8 ∧ e.frameCtr.bytes = (w.bytes.drop 22).take 4 ∧
      e.ctLen.toNat = (if 6 + e.frameLen.toNat > 26 then 6 + e.frameLen.toNat - 26 else 0) ∧
      e.ctLen.toNat = max 0 ((e.frameLen.toNat : Int) - 20) ∧ e.ctLen.toNat ≤ 235

/-- R125, R211: `SPLIT` of a window that fails a comparison raises `FrameInvalid`: the cycle is discarded, `ERR` is
set, the phase is RECOVER, and no envelope is stored. -/
def Obligations.SplitRaisesFrameInvalid : Prop :=
  ∀ (s : State) (w : FixedBytes 282), s.phase = .loaded → s.win = some w → validWindow w = false →
    exec .split s = .next
      { s with win := none, mbusStart := none, frameLen := none, sysTitle := none, frameCtr := none, ctLen := none,
               apdu := none, apduLen := none, getresp := false, err := .frameInvalid, phase := .recover, cstat := .ok }

/-- `SPLIT` outside LOADED is refused; a second `SPLIT` after one that was accepted changes nothing but `CSTAT`. -/
def Obligations.SplitRefusedOutsideLoaded : Prop :=
  (∀ s : State, s.phase ≠ .loaded → exec .split s = .next { s with cstat := .seq }) ∧
  (∀ s t : State, s.phase = .loaded → exec .split s = .next t → exec .split t = .next { t with cstat := .seq })

/-- R129: `LDWIN w; SPLIT` gives the same envelope and phase every time, whatever went before. -/
def Obligations.SplitDependsOnWindowOnly : Prop :=
  ∀ (w : FixedBytes 282) (s s' t t' : State) (u u' : State), s.phase ≠ .recover → s'.phase ≠ .recover →
    exec (.ldwin w.bytes) s = .next t → exec (.ldwin w.bytes) s' = .next t' →
    exec .split t = .next u → exec .split t' = .next u' →
    u.phase = u'.phase ∧ u.err = u'.err ∧ u.mbusStart = u'.mbusStart ∧ u.frameLen = u'.frameLen ∧
      u.sysTitle = u'.sysTitle ∧ u.frameCtr = u'.frameCtr ∧ u.ctLen = u'.ctLen

/-- R144, R147, R148: `DECRYPT` in ENVELOPE with a key, a span that holds a tag, and a tag that is the expected one,
completes: the plaintext is released, the window dropped, the envelope kept, every other field as it was. -/
def Obligations.DecryptReleasesApdu : Prop :=
  ∀ (s : State) (k : FixedBytes 16) (w : FixedBytes 282) (n : BitVec 8) (title : FixedBytes 8) (ctr : FixedBytes 4)
    (j0 : Block) (c tag p : Bytes),
    s.phase = .envelope → s.key = some k → s.win = some w → s.ctLen = some n → s.sysTitle = some title →
    s.frameCtr = some ctr → j0.bytes = title.bytes ++ ctr.bytes ++ [0x00#8, 0x00#8, 0x00#8, 0x01#8] →
    (w.bytes.drop 26).take n.toNat = c ++ tag → tag.length = Config.tagLen.len →
    tag = (((aes k j0).xor (ghash (aes k (.zero 16))
      (pad16 Config.aad.bytes ++ pad16 c ++ beBytes 8 (8 * Config.aad.bytes.length) ++ beBytes 8 (8 * c.length)))).bytes).take
        Config.tagLen.len →
    p = gctr k (inc32 j0) c →
    exec .decrypt s = .next
      { s with apdu := some p, apduLen := some (BitVec.ofNat 8 p.length),
               getresp := decide (2 ≤ p.length ∧ p[0]? = some 0x0F#8 ∧ p[1]? = some 0x80#8),
               win := none, phase := .done, cstat := .ok } ∧
    p.length = n.toNat - Config.tagLen.len ∧ (BitVec.ofNat 8 p.length).toNat = p.length

/-- R142: a span too short to hold a tag raises `DecryptError` with cause LEN, whatever its bytes are, and no other
length is malformed. -/
def Obligations.DecryptRejectsShortSpan : Prop :=
  ∀ (s : State) (k : FixedBytes 16) (w : FixedBytes 282) (n : BitVec 8) (title : FixedBytes 8) (ctr : FixedBytes 4),
    s.phase = .envelope → s.key = some k → s.win = some w → s.ctLen = some n → s.sysTitle = some title →
    s.frameCtr = some ctr →
    (n.toNat < Config.tagLen.len → exec .decrypt s = .next
      { s with win := none, mbusStart := none, frameLen := none, sysTitle := none, frameCtr := none, ctLen := none,
               apdu := none, apduLen := none, getresp := false, err := .decryptLen, phase := .idle, cstat := .ok }) ∧
    (Config.tagLen.len ≤ n.toNat → ∃ t, exec .decrypt s = .next t ∧ (t.phase = .done ∨ t.err = .decryptTag))

/-- R146, R149: a tag that is not the expected one raises `DecryptError` with cause TAG; no plaintext is stored. -/
def Obligations.DecryptRejectsWrongTag : Prop :=
  ∀ (s : State) (k : FixedBytes 16) (w : FixedBytes 282) (n : BitVec 8) (title : FixedBytes 8) (ctr : FixedBytes 4)
    (j0 : Block) (c tag : Bytes),
    s.phase = .envelope → s.key = some k → s.win = some w → s.ctLen = some n → s.sysTitle = some title →
    s.frameCtr = some ctr → j0.bytes = title.bytes ++ ctr.bytes ++ [0x00#8, 0x00#8, 0x00#8, 0x01#8] →
    (w.bytes.drop 26).take n.toNat = c ++ tag → tag.length = Config.tagLen.len →
    tag ≠ (((aes k j0).xor (ghash (aes k (.zero 16))
      (pad16 Config.aad.bytes ++ pad16 c ++ beBytes 8 (8 * Config.aad.bytes.length) ++ beBytes 8 (8 * c.length)))).bytes).take
        Config.tagLen.len →
    exec .decrypt s = .next
      { s with win := none, mbusStart := none, frameLen := none, sysTitle := none, frameCtr := none, ctLen := none,
               apdu := none, apduLen := none, getresp := false, err := .decryptTag, phase := .idle, cstat := .ok }

/-- `DECRYPT` outside ENVELOPE is refused with SEQ, key or no key, and in ENVELOPE without a key with NOKEY; both
change `CSTAT` only. -/
def Obligations.DecryptRefusals : Prop :=
  (∀ s : State, s.phase ≠ .envelope → exec .decrypt s = .next { s with cstat := .seq }) ∧
  (∀ s : State, s.phase = .envelope → s.key = none → exec .decrypt s = .next { s with cstat := .nokey })

/-- R214: raising an error ends the cycle, sets `ERR` and moves `PHASE`, and saves or changes nothing else. -/
def Obligations.RaiseEndsCycle : Prop :=
  (∀ s : State, s.raise .frameInvalid =
    { s with win := none, mbusStart := none, frameLen := none, sysTitle := none, frameCtr := none, ctLen := none,
             apdu := none, apduLen := none, getresp := false, err := .frameInvalid, phase := .recover }) ∧
  (∀ s : State, s.raise (.decryptError .len) =
    { s with win := none, mbusStart := none, frameLen := none, sysTitle := none, frameCtr := none, ctLen := none,
             apdu := none, apduLen := none, getresp := false, err := .decryptLen, phase := .idle }) ∧
  (∀ s : State, s.raise (.decryptError .tag) =
    { s with win := none, mbusStart := none, frameLen := none, sysTitle := none, frameCtr := none, ctLen := none,
             apdu := none, apduLen := none, getresp := false, err := .decryptTag, phase := .idle })

/-! ## The whole machine -/

/-- R22: the phase table, for every state that meets the invariant, every command and the timer event: an accepted
command leads to the table's phase, a missing key and a refusal leave the phase. -/
def Obligations.PhaseTableHolds : Prop :=
  (∀ (s : State) (i : Instr), StateInv s → i.wellFormed = true →
    ∃ t, exec i s = .next t ∧
      match phaseTable s.phase i (dataGood i s) s.key.isSome with
      | some p => t.phase = p ∧ t.cstat ≠ .seq
      | none => t = { s with cstat := .seq }) ∧
  (∀ s : State, s.phase = .recover → ∃ t, timerExpiry s = .next t ∧ t.phase = .idle) ∧
  (∀ s : State, s.phase ≠ .recover → timerExpiry s = .fault .timerNotEnabled) ∧
  (∀ (s : State) (f : Bytes) (rest : List Input) (e : DecodeError), s.inputs = .frame f :: rest →
    decode f = .error e → ∃ t, step s = .next t ∧ t.phase = s.phase)

/-- The invariant holds at reset. -/
def Obligations.ResetMeetsInvariant : Prop := StateInv State.reset

/-- R34: every step, from every state that meets the invariant, leads to one that meets it. -/
def Obligations.StepKeepsInvariant : Prop :=
  ∀ s t : State, StateInv s → step s = .next t → StateInv t

/-- R34: every state along a run from reset, with any inputs, meets the invariant. -/
def Obligations.EveryReachableStateMeetsInvariant : Prop :=
  ∀ (inputs : List Input) (k : Nat) (t : State),
    Host.Core.run core k { State.reset with inputs := inputs } = .next t → StateInv t

/-- A state that meets the invariant always has a next step, but for a timer input outside RECOVER: no command, no
data and no reset ever stops the block. -/
def Obligations.BlockNeverStops : Prop :=
  ∀ s : State, StateInv s → (∀ rest, s.inputs = .timer :: rest → s.phase = .recover) → ∃ t, step s = .next t

/-- R212: what a refused frame does, and exactly when each refusal happens. -/
def Obligations.RefusalsChangeCstatOnly : Prop :=
  ∀ (s t : State) (f : Bytes) (rest : List Input), s.inputs = .frame f :: rest → step s = .next t →
    (t.cstat ≠ .ok → t = { s with inputs := rest, cstat := t.cstat }) ∧
    (t.cstat = .unknownOp ↔ f = [] ∨ ∃ op data, f = op :: data ∧ (op.toNat < 1 ∨ 5 < op.toNat)) ∧
    (t.cstat = .badLength ↔ ∃ op data, f = op :: data ∧
      ((op.toNat = 1 ∧ f.length ≠ 17) ∨ (op.toNat = 2 ∧ f.length ≠ 283) ∨
        (3 ≤ op.toNat ∧ op.toNat ≤ 5 ∧ f.length ≠ 1))) ∧
    (t.cstat = .seq ↔
      ((∃ data, decode f = .ok (.ldkey data)) ∧ s.phase ≠ .idle) ∨ (decode f = .ok .split ∧ s.phase ≠ .loaded) ∨
        (decode f = .ok .decrypt ∧ s.phase ≠ .envelope) ∨
        (((∃ data, decode f = .ok (.ldwin data)) ∨ decode f = .ok .clr) ∧ s.phase = .recover)) ∧
    (t.cstat = .nokey ↔ decode f = .ok .decrypt ∧ s.phase = .envelope ∧ s.key = none)

/-- R31: the codes of `ERR`; once set, it keeps its value until an accepted `LDWIN` or `CLR` or a reset; and only those
and an accepted `SPLIT` or `DECRYPT` ever change it. -/
def Obligations.ErrIsSticky : Prop :=
  (ErrClass.none.code = 0#3 ∧ ErrClass.frameInvalid.code = 1#3 ∧ ErrClass.decryptLen.code = 2#3 ∧
    ErrClass.decryptTag.code = 3#3) ∧
  ∀ s t : State, StateInv s → step s = .next t → t.err ≠ s.err →
    (∃ rest, s.inputs = .reset :: rest ∧ t.err = .none) ∨
    (∃ f rest i, s.inputs = .frame f :: rest ∧ decode f = .ok i ∧ t.cstat = .ok ∧
      (((∃ data, i = .ldwin data) ∨ i = .clr) ∧ t.err = .none ∨
        s.err = .none ∧ (i = .split ∧ t.err = .frameInvalid ∨
          i = .decrypt ∧ (t.err = .decryptLen ∨ t.err = .decryptTag))))

/-- R26: an APDU that was not there before was released by a `DECRYPT` in ENVELOPE whose tag, the last `TAG_LEN` bytes
of the span, verified, and is the plaintext of the rest of the span. -/
def Obligations.ApduOnlyAfterTagCheck : Prop :=
  ∀ (s t : State) (p : Bytes), step s = .next t → t.apdu = some p → s.apdu ≠ some p →
    ∃ (f : Bytes) (rest : List Input) (k : FixedBytes 16) (w : FixedBytes 282) (n : BitVec 8) (title : FixedBytes 8)
      (ctr : FixedBytes 4) (c tag : Bytes),
      s.inputs = .frame f :: rest ∧ decode f = .ok .decrypt ∧ s.phase = .envelope ∧ t.phase = .done ∧
      s.key = some k ∧ s.win = some w ∧ s.ctLen = some n ∧ s.sysTitle = some title ∧ s.frameCtr = some ctr ∧
      (w.bytes.drop 26).take n.toNat = c ++ tag ∧ tag.length = Config.tagLen.len ∧
      expectedTag k (nonceOf title ctr) Config.aad.bytes c Config.tagLen.len = tag ∧
      p = gcmStream k (nonceOf title ctr) c

/-- RECOVER is left by `TEXP` or reset only: every frame in RECOVER is refused, whatever it is. -/
def Obligations.RecoverRefusesEveryFrame : Prop :=
  ∀ (s : State) (f : Bytes) (rest : List Input), s.phase = .recover → s.inputs = .frame f :: rest →
    ∃ c : RefuseCause, step s = .next { s with inputs := rest, cstat := c.cstat } ∧ c ≠ .nokey

/-- `ResyncReq` is emitted by `TEXP` only: a step either leaves `OUT`, or appends one event on the way from RECOVER to
IDLE without a frame or a reset. -/
def Obligations.ResyncOnlyAtPauseEnd : Prop :=
  ∀ s t : State, step s = .next t →
    t.out = s.out ∨
      (t.out = s.out ++ [.resyncReq] ∧ s.phase = .recover ∧ t.phase = .idle ∧
        (s.inputs = [] ∨ ∃ rest, s.inputs = .timer :: rest))

/-- The recovery pause ends: whatever the host presents meanwhile, and however long, RECOVER is left for IDLE within as
many steps as there are inputs and one more, with one `ResyncReq` or by a reset with none. That the timer acts at the
latest when nothing else is left to happen is the model's choice (log entry 3). -/
def Obligations.RecoveryPauseEnds : Prop :=
  ∀ s : State, s.phase = .recover →
    ∃ (k : Nat) (t : State), k ≤ s.inputs.length + 1 ∧ Host.Core.run core k s = .next t ∧ t.phase = .idle ∧
      (t.out = s.out ++ [.resyncReq] ∧ t.err = s.err ∧ t.key = s.key ∨ t.out = s.out ∧ t.err = .none ∧ t.key = none)

/-- The key changes only by an accepted `LDKEY` in IDLE or a reset, which alone removes it; so it is constant over a
cycle. -/
def Obligations.KeyChangesOnlyInIdleOrReset : Prop :=
  ∀ s t : State, step s = .next t → t.key ≠ s.key →
    (∃ rest, s.inputs = .reset :: rest ∧ t.key = none) ∨
    (∃ f rest data, s.inputs = .frame f :: rest ∧ decode f = .ok (.ldkey data) ∧ s.phase = .idle ∧
      t.key.map FixedBytes.bytes = some data)

/-- Nothing depends on the key's bytes but a `DECRYPT` that is performed: two states that differ in the key's bytes
only look the same to the host, and any other step leads both to states that again differ in the key's bytes only. -/
def Obligations.KeyBytesInfluenceOnlyDecrypt : Prop :=
  ∀ s s' : State, SameButKeyBytes s s' →
    s.view = s'.view ∧
    ((∀ f rest, s.inputs = .frame f :: rest → decode f = .ok .decrypt → s.phase ≠ .envelope) →
      SameOutcome SameButKeyBytes (step s) (step s'))

/-- One cycle of R83: two windows that agree on the examined bytes lead, through `LDWIN`, `SPLIT` and `DECRYPT` from any
state, to states that differ in nothing but the window itself. What any other step does is
`StepKeepsUnexaminedUnseen`. -/
def Obligations.UnexaminedBytesInfluenceNothing : Prop :=
  ∀ (s : State) (w w' : FixedBytes 282) (rest : List Input) (k : Nat), SameExamined w w' → 1 ≤ k → k ≤ 3 →
    ∃ t t', Host.Core.run core k { s with inputs := cycleInputs w ++ rest } = .next t ∧
      Host.Core.run core k { s with inputs := cycleInputs w' ++ rest } = .next t' ∧ t' = { t with win := t'.win }

/-- Nothing of a cycle survives the next `LDWIN`: it leads two states with the same key, trace and inputs, both outside
RECOVER, to the same state. -/
def Obligations.LdwinForgetsPreviousCycle : Prop :=
  ∀ (w : FixedBytes 282) (s s' : State), s.phase ≠ .recover → s'.phase ≠ .recover → s.key = s'.key →
    s.out = s'.out → s.inputs = s'.inputs → exec (.ldwin w.bytes) s = exec (.ldwin w.bytes) s'

/-- The round trip: a window that carries the sealed form of any plaintext that fits, under the loaded key and any
title, counter and unexamined bytes, gives exactly that plaintext after one cycle. -/
def Obligations.SealedPlaintextDecrypts : Prop :=
  ∀ (s : State) (key : FixedBytes 16) (title : FixedBytes 8) (ctr : FixedBytes 4) (fillA : FixedBytes 7)
    (fillB : FixedBytes 3) (p after : Bytes) (l : Byte) (w : FixedBytes 282) (rest : List Input),
    s.phase ≠ .recover → s.key = some key → s.inputs = cycleInputs w ++ rest →
    l.toNat = 20 + p.length + Config.tagLen.len →
    w.bytes = windowBytes l fillA title fillB ctr (sealedSpan key title ctr p) after →
    ∃ t, Host.Core.run core 3 s = .next t ∧ t.phase = .done ∧ t.apdu = some p ∧
      t.apduLen.map BitVec.toNat = some p.length ∧ t.getresp = getrespOf p ∧ t.err = .none ∧ t.cstat = .ok ∧
      t.frameLen = some l ∧ t.sysTitle = some title ∧ t.frameCtr = some ctr ∧ t.win = none ∧ t.key = some key ∧
      t.out = s.out ∧ t.inputs = rest

/-! ## What the host sees -/

/-- R33: the fields of `STATUS` at their places, the reserved bits 0, and the codes of R21, R31 and R32 that stand in
the fields of `PHASE`, `ERR` and `CSTAT`. -/
def Obligations.StatusLayout : Prop :=
  (∀ s : State,
    s.status.extractLsb' 0 3 = s.phase.code ∧ s.status.getLsbD 3 = s.key.isSome ∧
    s.status.getLsbD 4 = decide (s.phase = .envelope ∨ s.phase = .done) ∧ s.status.getLsbD 5 = decide (s.phase = .done) ∧
    s.status.getLsbD 6 = s.getresp ∧ s.status.getLsbD 7 = false ∧ s.status.extractLsb' 8 3 = s.err.code ∧
    s.status.getLsbD 11 = false ∧ s.status.extractLsb' 12 3 = s.cstat.code ∧ s.status.getLsbD 15 = false) ∧
  (Phase.idle.code = 0#3 ∧ Phase.loaded.code = 1#3 ∧ Phase.envelope.code = 2#3 ∧ Phase.done.code = 3#3 ∧
    Phase.recover.code = 4#3) ∧
  (ErrClass.none.code = 0#3 ∧ ErrClass.frameInvalid.code = 1#3 ∧ ErrClass.decryptLen.code = 2#3 ∧
    ErrClass.decryptTag.code = 3#3) ∧
  (CStat.ok.code = 0#3 ∧ CStat.unknownOp.code = 1#3 ∧ CStat.badLength.code = 2#3 ∧ CStat.seq.code = 3#3 ∧
    CStat.nokey.code = 4#3)

/-- R35: `STATUS` and `OUT` are always in the view, the envelope registers exactly when `ENV_VALID`, the APDU and its
length exactly when `APDU_VALID`; a read of a register in the view returns that register's value; the view of two
states that differ in the window and in the key's bytes is the same. R20, R63: the registers have the numbers 0 to 7,
and there is no other register to read. -/
def Obligations.HostViewGates : Prop :=
  (∀ s : State, StateInv s →
    s.view.read .status = some (.word s.status) ∧ s.view.out = s.out ∧
    (∀ r, r = .mbusStart ∨ r = .frameLen ∨ r = .sysTitle ∨ r = .frameCtr ∨ r = .ctLen →
      (s.view.read r).isSome = s.envValid) ∧
    (∀ r, r = .apduLen ∨ r = .apdu → (s.view.read r).isSome = s.apduValid) ∧
    (s.envValid = true → s.view.mbusStart = s.mbusStart ∧ s.view.frameLen = s.frameLen ∧
      s.view.sysTitle = s.sysTitle ∧ s.view.frameCtr = s.frameCtr ∧ s.view.ctLen = s.ctLen ∧
      s.view.read .mbusStart = s.mbusStart.map (fun b => .bytes b.bytes) ∧
      s.view.read .frameLen = s.frameLen.map .byte ∧
      s.view.read .sysTitle = s.sysTitle.map (fun b => .bytes b.bytes) ∧
      s.view.read .frameCtr = s.frameCtr.map (fun b => .bytes b.bytes) ∧
      s.view.read .ctLen = s.ctLen.map .byte) ∧
    (s.apduValid = true → s.view.apdu = s.apdu ∧ s.view.apduLen = s.apduLen ∧
      s.view.read .apdu = s.apdu.map .bytes ∧ s.view.read .apduLen = s.apduLen.map .byte)) ∧
  (∀ s s' : State, s' = { s with key := s'.key, win := s'.win } → s.key.isSome = s'.key.isSome → s.view = s'.view) ∧
  (HostReg.status.number = 0 ∧ HostReg.mbusStart.number = 1 ∧ HostReg.frameLen.number = 2 ∧
    HostReg.sysTitle.number = 3 ∧ HostReg.frameCtr.number = 4 ∧ HostReg.ctLen.number = 5 ∧
    HostReg.apduLen.number = 6 ∧ HostReg.apdu.number = 7 ∧ ∀ r : HostReg, r.number ≤ 7)

/-- R27: `GETRESP` is 1 exactly when a released APDU of at least two bytes begins 0x0F 0x80; a 0 is no error and
withholds nothing. -/
def Obligations.GetrespMeaning : Prop :=
  ∀ s : State, StateInv s →
    (s.getresp = true ↔ ∃ p, s.apduValid = true ∧ s.apdu = some p ∧ 2 ≤ p.length ∧ p[0]? = some 0x0F#8 ∧
      p[1]? = some 0x80#8) ∧
    (s.apduValid = true → s.err = .none ∧ ∃ p, s.view.apdu = some p)

/-! ## The cipher -/

/-- R172, R178: every non-zero byte has its inverse, and the table is the affine map of the inverse and a
permutation. -/
def Obligations.SboxIsAffineOfInverse : Prop :=
  (∀ a : Byte, a ≠ 0#8 → gf8Mul a (gf8Inv a) = 1#8) ∧ gf8Inv 0#8 = 0#8 ∧
  (∀ a : Byte, sbox a = gf8Inv a ^^^ (gf8Inv a).rotateLeft 1 ^^^ (gf8Inv a).rotateLeft 2 ^^^
    (gf8Inv a).rotateLeft 3 ^^^ (gf8Inv a).rotateLeft 4 ^^^ 0x63#8) ∧
  (∀ a b : Byte, sbox a = sbox b → a = b)

/-- R171, R173, R174, R175: the round transformations, cell by cell of the state filled column by column. -/
def Obligations.RoundTransformationsByCell : Prop :=
  ∀ (s : Block) (r c : Nat), r < 4 → c < 4 →
    s.bytes[r + 4 * c]? = some (cell s r c) ∧
    cell (subBytes s) r c = sbox (cell s r c) ∧
    cell (shiftRows s) r c = cell s r ((c + r) % 4) ∧
    cell (mixColumns s) 0 c =
      xtime (cell s 0 c) ^^^ (xtime (cell s 1 c) ^^^ cell s 1 c) ^^^ cell s 2 c ^^^ cell s 3 c ∧
    cell (mixColumns s) 1 c =
      cell s 0 c ^^^ xtime (cell s 1 c) ^^^ (xtime (cell s 2 c) ^^^ cell s 2 c) ^^^ cell s 3 c ∧
    cell (mixColumns s) 2 c =
      cell s 0 c ^^^ cell s 1 c ^^^ xtime (cell s 2 c) ^^^ (xtime (cell s 3 c) ^^^ cell s 3 c) ∧
    cell (mixColumns s) 3 c =
      (xtime (cell s 0 c) ^^^ cell s 0 c) ^^^ cell s 1 c ^^^ cell s 2 c ^^^ xtime (cell s 3 c)

/-- R176, R177, R179: the 44 words of the key schedule, the recurrence between them, and how a round key meets the
state. -/
def Obligations.KeyScheduleRecurrence : Prop :=
  ∀ k : Block, (keyExpansion k).length = 44 ∧
    (∀ i, i < 4 → ∃ w, (keyExpansion k)[i]? = some w ∧ w.bytes = (k.bytes.drop (4 * i)).take 4) ∧
    (∀ i, 4 ≤ i → i < 44 → ∃ w prev old, (keyExpansion k)[i]? = some w ∧ (keyExpansion k)[i - 1]? = some prev ∧
      (keyExpansion k)[i - 4]? = some old ∧
      (i % 4 ≠ 0 → w = old.xor prev) ∧
      (i % 4 = 0 → ∀ t : FixedBytes 4,
        t.bytes = [sbox (prev.get 1) ^^^ (xtime^[i / 4 - 1]) 0x01#8, sbox (prev.get 2), sbox (prev.get 3),
          sbox (prev.get 0)] → w = old.xor t)) ∧
    (∀ (s : Block) (j r c : Nat) (hr : r < 4), c < 4 → j < 11 → ∃ w, (keyExpansion k)[4 * j + c]? = some w ∧
      cell (addRoundKey (keyExpansion k) j s) r c = cell s r c ^^^ w.get ⟨r, hr⟩)

/-- R181: the public examples of FIPS 197 and the all-zero block. -/
def Obligations.AesPublicExamples : Prop :=
  aes (.ofNat 16 0x2b7e151628aed2a6abf7158809cf4f3c) (.ofNat 16 0x3243f6a8885a308d313198a2e0370734) =
    .ofNat 16 0x3925841d02dc09fbdc118597196a0b32 ∧
  roundKey (keyExpansion (.ofNat 16 0x2b7e151628aed2a6abf7158809cf4f3c)) 1 =
    .ofNat 16 0xa0fafe1788542cb123a339392a6c7605 ∧
  roundKey (keyExpansion (.ofNat 16 0x2b7e151628aed2a6abf7158809cf4f3c)) 10 =
    .ofNat 16 0xd014f9a8c9ee2589e13f0cc8b6630ca6 ∧
  aes (.ofNat 16 0x000102030405060708090a0b0c0d0e0f) (.ofNat 16 0x00112233445566778899aabbccddeeff) =
    .ofNat 16 0x69c4e0d86a7b0430d8cdb78070b4c55a ∧
  roundKey (keyExpansion (.ofNat 16 0x000102030405060708090a0b0c0d0e0f)) 1 =
    .ofNat 16 0xd6aa74fdd2af72fadaa678f1d6ab76fe ∧
  roundKey (keyExpansion (.ofNat 16 0x000102030405060708090a0b0c0d0e0f)) 10 =
    .ofNat 16 0x13111d7fe3944a17f307a78b4d2b30c5 ∧
  aes (.zero 16) (.zero 16) = .ofNat 16 0x66e94bd4ef8a2c3b884cfa59ca342b2e

/-- R190: `inc32` leaves bytes 0..11 and adds one, modulo 2^32, to the big-endian integer of bytes 12..15. -/
def Obligations.Inc32CountsInLastFourBytes : Prop :=
  ∀ x : Block, (inc32 x).bytes.take 12 = x.bytes.take 12 ∧
    intBE ((inc32 x).bytes.drop 12) = (intBE (x.bytes.drop 12) + 1) % 2 ^ 32

/-- R191: `GCTR` keeps the length and is its own inverse for a fixed key and initial counter block; block `i` of the
result is block `i` of the input under the `i`-th counter block's keystream. -/
def Obligations.GctrIsItsOwnInverse : Prop :=
  ∀ (k icb : Block) (x : Bytes), (gctr k icb x).length = x.length ∧ gctr k icb (gctr k icb x) = x ∧
    ∀ i, ((gctr k icb x).drop (16 * i)).take 16 = xorLeading ((x.drop (16 * i)).take 16) (aes k (inc32^[i] icb)).bytes

/-- R192: `pad16` appends the fewest zero bytes, 0 to 15, that make the length a multiple of 16. -/
def Obligations.Pad16IsShortest : Prop :=
  ∀ x : Bytes, ∃ n, pad16 x = x ++ List.replicate n 0#8 ∧ n ≤ 15 ∧ (pad16 x).length % 16 = 0 ∧
    (∀ m, (x.length + m) % 16 = 0 → n ≤ m) ∧ pad16 [] = []

/-- R196: the form of the GHASH input, its length, and its two length fields in bits. -/
def Obligations.GhashInputForm : Prop :=
  ∀ a c : Bytes, a.length < 2 ^ 61 → c.length ≤ 231 →
    (ghashIn a c).length % 16 = 0 ∧ 16 ≤ (ghashIn a c).length ∧
    ∃ la lc : Bytes, ghashIn a c = pad16 a ++ pad16 c ++ la ++ lc ∧ la.length = 8 ∧ lc.length = 8 ∧
      intBE la = 8 * a.length ∧ intBE lc = 8 * c.length ∧ lc.take 6 = List.replicate 6 0#8

/-- R194: the product of blocks is commutative and associative, distributes over `⊕`, has the identity 80 00 ... 00,
gives zero with zero, multiplies by `u` (the block 40 00 ... 00) as the rule's update of `V` does, and has the values
of the rule's examples. Together these fix every product: each block is a sum of powers of `u`. -/
def Obligations.BlockProductIsFieldProduct : Prop :=
  (∀ x y : Block, blockMul x y = blockMul y x) ∧
  (∀ x y z : Block, blockMul (blockMul x y) z = blockMul x (blockMul y z)) ∧
  (∀ x y z : Block, blockMul (x.xor y) z = (blockMul x z).xor (blockMul y z)) ∧
  (∀ y : Block, blockMul (.ofNat 16 0x80000000000000000000000000000000) y = y) ∧
  (∀ y : Block, blockMul (.zero 16) y = .zero 16) ∧
  (∀ y : Block, blockBits (blockMul (.ofNat 16 0x40000000000000000000000000000000) y) =
    if (blockBits y).getLsbD 0 then (blockBits y >>> 1) ^^^ 0xE1000000000000000000000000000000#128
    else blockBits y >>> 1) ∧
  blockMul (.ofNat 16 1) (.ofNat 16 0x40000000000000000000000000000000) =
    .ofNat 16 0xE1000000000000000000000000000000 ∧
  blockMul (.ofNat 16 1) (.ofNat 16 1) = .ofNat 16 0xE6080000000000000000000000000003 ∧
  blockMul (.ofNat 16 0xC6A13B37878F5B826F4F8162A1C8D879) (.ofNat 16 0xC6A13B37878F5B826F4F8162A1C8D879) =
    .ofNat 16 0x70A464963F89B8747F39DD0BF8AFB53E

/-- R195: `GHASH` of no block is zero, and one more block is added and multiplied by `H`. -/
def Obligations.GhashRecurrence : Prop :=
  ∀ (h : Block) (x : Bytes) (b : Block), x.length % 16 = 0 →
    ghash h [] = .zero 16 ∧ ghash h (x ++ b.bytes) = blockMul ((ghash h x).xor b) h

/-! ## Unexamined bytes, whatever is done next -/

/-- R83: two states that differ at most in unexamined window bytes, of the windows they hold and of the windows the host
is still to load, look the same to the host, and every step, whatever it is, leads them to the same kind of outcome
and to states that again differ at most so and look the same. So no sequence of steps ever tells the windows apart. -/
def Obligations.StepKeepsUnexaminedUnseen : Prop :=
  ∀ s s' : State, StateInv s → SameButUnexamined s s' →
    s.view = s'.view ∧
      SameOutcome (fun t t' => SameButUnexamined t t' ∧ t.view = t'.view) (step s) (step s')
end

