-- ==== Sys2Proof/Laws/Bytes.lean ====
section
/-! SUPPORT. The small lemmas of the byte-string definitions: what each is, byte for byte, and when two fixed-length
strings are equal. -/

namespace Sys2Proof

/-- Two fixed-length strings with the same bytes are the same. -/
theorem FixedBytes.eq_of_bytes {n : Nat} {a b : FixedBytes n} (h : a.bytes = b.bytes) : a = b := by
  cases a
  cases b
  cases h
  rfl

@[simp] theorem FixedBytes.zero_bytes (n : Nat) : (FixedBytes.zero n).bytes = List.replicate n 0#8 := rfl

@[simp] theorem FixedBytes.ofNat_bytes (n v : Nat) : (FixedBytes.ofNat n v).bytes = beBytes n v := rfl

@[simp] theorem FixedBytes.append_bytes {m n : Nat} (a : FixedBytes m) (b : FixedBytes n) :
    (a.append b).bytes = a.bytes ++ b.bytes := rfl

@[simp] theorem FixedBytes.slice_bytes {n : Nat} (s : FixedBytes n) (a k : Nat) (h : a + k ≤ n) :
    (s.slice a k h).bytes = (s.bytes.drop a).take k := rfl

@[simp] theorem FixedBytes.xor_bytes {n : Nat} (a b : FixedBytes n) :
    (a.xor b).bytes = List.zipWith (· ^^^ ·) a.bytes b.bytes := rfl

@[simp] theorem FixedBytes.ofFn_bytes {n : Nat} (f : Fin n → Byte) : (FixedBytes.ofFn f).bytes = List.ofFn f := rfl

theorem FixedBytes.get_eq {n : Nat} (s : FixedBytes n) (i : Fin n) : s.bytes[i.val]? = some (s.get i) := by
  have h : i.val < s.bytes.length := by have := s.size; omega
  simp [FixedBytes.get]

theorem FixedBytes.get_ofFn {n : Nat} (f : Fin n → Byte) (i : Fin n) : (FixedBytes.ofFn f).get i = f i := by
  simp only [FixedBytes.get, FixedBytes.ofFn, List.get_ofFn]
  rfl

/-- The first `n` bytes of a list that is long enough. -/
theorem FixedBytes.ofBytes_bytes {n : Nat} {l : Bytes} (h : n ≤ l.length) : (FixedBytes.ofBytes n l).bytes = l.take n := by
  simp [FixedBytes.ofBytes, List.take_append_of_le_length h]

theorem FixedBytes.ofBytes_of_length {n : Nat} {l : Bytes} (h : l.length = n) : (FixedBytes.ofBytes n l).bytes = l := by
  rw [FixedBytes.ofBytes_bytes (by omega), List.take_of_length_le (by omega)]

@[simp] theorem beBytes_zero (v : Nat) : beBytes 0 v = [] := rfl

theorem beBytes_succ (n v : Nat) : beBytes (n + 1) v = beBytes n (v / 256) ++ [BitVec.ofNat 8 v] := rfl

namespace Machine

/-- `T'` has `TAG_LEN` bytes, since every legal `TAG_LEN` is at most 16. -/
theorem expectedTag_length (k : Block) (n : FixedBytes Config.nonceLen) (a c : Bytes) (t : Config.TagLen) :
    (expectedTag k n a c t.len).length = t.len := by
  have h := (fullTag k n a c).size
  cases t <;> simp [expectedTag, h, Config.TagLen.len]

/-- A legal tag has 4 to 16 bytes. -/
theorem tagLen_bounds (t : Config.TagLen) : 4 ≤ t.len ∧ t.len ≤ 16 := by
  cases t <;> decide

end Machine

end Sys2Proof
end

