-- ==== Sys2Proof/Laws/State.lean ====
section
/-! SUPPORT. One lemma per field per update of the state, so that no proof unfolds a record update. -/

namespace Sys2Proof.Machine

@[simp] theorem State.refuse_phase (s : State) (c : RefuseCause) : (s.refuse c).phase = s.phase := rfl
@[simp] theorem State.refuse_key (s : State) (c : RefuseCause) : (s.refuse c).key = s.key := rfl
@[simp] theorem State.refuse_win (s : State) (c : RefuseCause) : (s.refuse c).win = s.win := rfl
@[simp] theorem State.refuse_mbusStart (s : State) (c : RefuseCause) : (s.refuse c).mbusStart = s.mbusStart := rfl
@[simp] theorem State.refuse_frameLen (s : State) (c : RefuseCause) : (s.refuse c).frameLen = s.frameLen := rfl
@[simp] theorem State.refuse_sysTitle (s : State) (c : RefuseCause) : (s.refuse c).sysTitle = s.sysTitle := rfl
@[simp] theorem State.refuse_frameCtr (s : State) (c : RefuseCause) : (s.refuse c).frameCtr = s.frameCtr := rfl
@[simp] theorem State.refuse_ctLen (s : State) (c : RefuseCause) : (s.refuse c).ctLen = s.ctLen := rfl
@[simp] theorem State.refuse_apduLen (s : State) (c : RefuseCause) : (s.refuse c).apduLen = s.apduLen := rfl
@[simp] theorem State.refuse_apdu (s : State) (c : RefuseCause) : (s.refuse c).apdu = s.apdu := rfl
@[simp] theorem State.refuse_getresp (s : State) (c : RefuseCause) : (s.refuse c).getresp = s.getresp := rfl
@[simp] theorem State.refuse_err (s : State) (c : RefuseCause) : (s.refuse c).err = s.err := rfl
@[simp] theorem State.refuse_cstat (s : State) (c : RefuseCause) : (s.refuse c).cstat = c.cstat := rfl
@[simp] theorem State.refuse_out (s : State) (c : RefuseCause) : (s.refuse c).out = s.out := rfl
@[simp] theorem State.refuse_inputs (s : State) (c : RefuseCause) : (s.refuse c).inputs = s.inputs := rfl

@[simp] theorem State.accept_phase (s : State) : s.accept.phase = s.phase := rfl
@[simp] theorem State.accept_key (s : State) : s.accept.key = s.key := rfl
@[simp] theorem State.accept_win (s : State) : s.accept.win = s.win := rfl
@[simp] theorem State.accept_mbusStart (s : State) : s.accept.mbusStart = s.mbusStart := rfl
@[simp] theorem State.accept_frameLen (s : State) : s.accept.frameLen = s.frameLen := rfl
@[simp] theorem State.accept_sysTitle (s : State) : s.accept.sysTitle = s.sysTitle := rfl
@[simp] theorem State.accept_frameCtr (s : State) : s.accept.frameCtr = s.frameCtr := rfl
@[simp] theorem State.accept_ctLen (s : State) : s.accept.ctLen = s.ctLen := rfl
@[simp] theorem State.accept_apduLen (s : State) : s.accept.apduLen = s.apduLen := rfl
@[simp] theorem State.accept_apdu (s : State) : s.accept.apdu = s.apdu := rfl
@[simp] theorem State.accept_getresp (s : State) : s.accept.getresp = s.getresp := rfl
@[simp] theorem State.accept_err (s : State) : s.accept.err = s.err := rfl
@[simp] theorem State.accept_cstat (s : State) : s.accept.cstat = .ok := rfl
@[simp] theorem State.accept_out (s : State) : s.accept.out = s.out := rfl
@[simp] theorem State.accept_inputs (s : State) : s.accept.inputs = s.inputs := rfl

@[simp] theorem State.endCycle_phase (s : State) : s.endCycle.phase = s.phase := rfl
@[simp] theorem State.endCycle_key (s : State) : s.endCycle.key = s.key := rfl
@[simp] theorem State.endCycle_win (s : State) : s.endCycle.win = none := rfl
@[simp] theorem State.endCycle_mbusStart (s : State) : s.endCycle.mbusStart = none := rfl
@[simp] theorem State.endCycle_frameLen (s : State) : s.endCycle.frameLen = none := rfl
@[simp] theorem State.endCycle_sysTitle (s : State) : s.endCycle.sysTitle = none := rfl
@[simp] theorem State.endCycle_frameCtr (s : State) : s.endCycle.frameCtr = none := rfl
@[simp] theorem State.endCycle_ctLen (s : State) : s.endCycle.ctLen = none := rfl
@[simp] theorem State.endCycle_apduLen (s : State) : s.endCycle.apduLen = none := rfl
@[simp] theorem State.endCycle_apdu (s : State) : s.endCycle.apdu = none := rfl
@[simp] theorem State.endCycle_getresp (s : State) : s.endCycle.getresp = false := rfl
@[simp] theorem State.endCycle_err (s : State) : s.endCycle.err = s.err := rfl
@[simp] theorem State.endCycle_cstat (s : State) : s.endCycle.cstat = s.cstat := rfl
@[simp] theorem State.endCycle_out (s : State) : s.endCycle.out = s.out := rfl
@[simp] theorem State.endCycle_inputs (s : State) : s.endCycle.inputs = s.inputs := rfl

@[simp] theorem State.raise_phase (s : State) (e : CycleError) : (s.raise e).phase = e.nextPhase := rfl
@[simp] theorem State.raise_key (s : State) (e : CycleError) : (s.raise e).key = s.key := rfl
@[simp] theorem State.raise_win (s : State) (e : CycleError) : (s.raise e).win = none := rfl
@[simp] theorem State.raise_mbusStart (s : State) (e : CycleError) : (s.raise e).mbusStart = none := rfl
@[simp] theorem State.raise_frameLen (s : State) (e : CycleError) : (s.raise e).frameLen = none := rfl
@[simp] theorem State.raise_sysTitle (s : State) (e : CycleError) : (s.raise e).sysTitle = none := rfl
@[simp] theorem State.raise_frameCtr (s : State) (e : CycleError) : (s.raise e).frameCtr = none := rfl
@[simp] theorem State.raise_ctLen (s : State) (e : CycleError) : (s.raise e).ctLen = none := rfl
@[simp] theorem State.raise_apduLen (s : State) (e : CycleError) : (s.raise e).apduLen = none := rfl
@[simp] theorem State.raise_apdu (s : State) (e : CycleError) : (s.raise e).apdu = none := rfl
@[simp] theorem State.raise_getresp (s : State) (e : CycleError) : (s.raise e).getresp = false := rfl
@[simp] theorem State.raise_err (s : State) (e : CycleError) : (s.raise e).err = e.errClass := rfl
@[simp] theorem State.raise_cstat (s : State) (e : CycleError) : (s.raise e).cstat = s.cstat := rfl
@[simp] theorem State.raise_out (s : State) (e : CycleError) : (s.raise e).out = s.out := rfl
@[simp] theorem State.raise_inputs (s : State) (e : CycleError) : (s.raise e).inputs = s.inputs := rfl

@[simp] theorem State.emit_phase (s : State) (e : OutEvent) : (s.emit e).phase = s.phase := rfl
@[simp] theorem State.emit_key (s : State) (e : OutEvent) : (s.emit e).key = s.key := rfl
@[simp] theorem State.emit_win (s : State) (e : OutEvent) : (s.emit e).win = s.win := rfl
@[simp] theorem State.emit_mbusStart (s : State) (e : OutEvent) : (s.emit e).mbusStart = s.mbusStart := rfl
@[simp] theorem State.emit_frameLen (s : State) (e : OutEvent) : (s.emit e).frameLen = s.frameLen := rfl
@[simp] theorem State.emit_sysTitle (s : State) (e : OutEvent) : (s.emit e).sysTitle = s.sysTitle := rfl
@[simp] theorem State.emit_frameCtr (s : State) (e : OutEvent) : (s.emit e).frameCtr = s.frameCtr := rfl
@[simp] theorem State.emit_ctLen (s : State) (e : OutEvent) : (s.emit e).ctLen = s.ctLen := rfl
@[simp] theorem State.emit_apduLen (s : State) (e : OutEvent) : (s.emit e).apduLen = s.apduLen := rfl
@[simp] theorem State.emit_apdu (s : State) (e : OutEvent) : (s.emit e).apdu = s.apdu := rfl
@[simp] theorem State.emit_getresp (s : State) (e : OutEvent) : (s.emit e).getresp = s.getresp := rfl
@[simp] theorem State.emit_err (s : State) (e : OutEvent) : (s.emit e).err = s.err := rfl
@[simp] theorem State.emit_cstat (s : State) (e : OutEvent) : (s.emit e).cstat = s.cstat := rfl
@[simp] theorem State.emit_out (s : State) (e : OutEvent) : (s.emit e).out = s.out ++ [e] := rfl
@[simp] theorem State.emit_inputs (s : State) (e : OutEvent) : (s.emit e).inputs = s.inputs := rfl

@[simp] theorem State.endPause_phase (s : State) : s.endPause.phase = .idle := rfl
@[simp] theorem State.endPause_key (s : State) : s.endPause.key = s.key := rfl
@[simp] theorem State.endPause_win (s : State) : s.endPause.win = s.win := rfl
@[simp] theorem State.endPause_mbusStart (s : State) : s.endPause.mbusStart = s.mbusStart := rfl
@[simp] theorem State.endPause_frameLen (s : State) : s.endPause.frameLen = s.frameLen := rfl
@[simp] theorem State.endPause_sysTitle (s : State) : s.endPause.sysTitle = s.sysTitle := rfl
@[simp] theorem State.endPause_frameCtr (s : State) : s.endPause.frameCtr = s.frameCtr := rfl
@[simp] theorem State.endPause_ctLen (s : State) : s.endPause.ctLen = s.ctLen := rfl
@[simp] theorem State.endPause_apduLen (s : State) : s.endPause.apduLen = s.apduLen := rfl
@[simp] theorem State.endPause_apdu (s : State) : s.endPause.apdu = s.apdu := rfl
@[simp] theorem State.endPause_getresp (s : State) : s.endPause.getresp = s.getresp := rfl
@[simp] theorem State.endPause_err (s : State) : s.endPause.err = s.err := rfl
@[simp] theorem State.endPause_cstat (s : State) : s.endPause.cstat = s.cstat := rfl
@[simp] theorem State.endPause_out (s : State) : s.endPause.out = s.out ++ [.resyncReq] := rfl
@[simp] theorem State.endPause_inputs (s : State) : s.endPause.inputs = s.inputs := rfl

@[simp] theorem State.storeKey_phase (s : State) (k : FixedBytes Config.keyLen) : (s.storeKey k).phase = s.phase := rfl
@[simp] theorem State.storeKey_key (s : State) (k : FixedBytes Config.keyLen) : (s.storeKey k).key = some k := rfl
@[simp] theorem State.storeKey_win (s : State) (k : FixedBytes Config.keyLen) : (s.storeKey k).win = s.win := rfl
@[simp] theorem State.storeKey_mbusStart (s : State) (k : FixedBytes Config.keyLen) : (s.storeKey k).mbusStart = s.mbusStart := rfl
@[simp] theorem State.storeKey_frameLen (s : State) (k : FixedBytes Config.keyLen) : (s.storeKey k).frameLen = s.frameLen := rfl
@[simp] theorem State.storeKey_sysTitle (s : State) (k : FixedBytes Config.keyLen) : (s.storeKey k).sysTitle = s.sysTitle := rfl
@[simp] theorem State.storeKey_frameCtr (s : State) (k : FixedBytes Config.keyLen) : (s.storeKey k).frameCtr = s.frameCtr := rfl
@[simp] theorem State.storeKey_ctLen (s : State) (k : FixedBytes Config.keyLen) : (s.storeKey k).ctLen = s.ctLen := rfl
@[simp] theorem State.storeKey_apduLen (s : State) (k : FixedBytes Config.keyLen) : (s.storeKey k).apduLen = s.apduLen := rfl
@[simp] theorem State.storeKey_apdu (s : State) (k : FixedBytes Config.keyLen) : (s.storeKey k).apdu = s.apdu := rfl
@[simp] theorem State.storeKey_getresp (s : State) (k : FixedBytes Config.keyLen) : (s.storeKey k).getresp = s.getresp := rfl
@[simp] theorem State.storeKey_err (s : State) (k : FixedBytes Config.keyLen) : (s.storeKey k).err = s.err := rfl
@[simp] theorem State.storeKey_cstat (s : State) (k : FixedBytes Config.keyLen) : (s.storeKey k).cstat = s.cstat := rfl
@[simp] theorem State.storeKey_out (s : State) (k : FixedBytes Config.keyLen) : (s.storeKey k).out = s.out := rfl
@[simp] theorem State.storeKey_inputs (s : State) (k : FixedBytes Config.keyLen) : (s.storeKey k).inputs = s.inputs := rfl

@[simp] theorem State.beginCycle_phase (s : State) (w : FixedBytes Config.windowLen) : (s.beginCycle w).phase = .loaded := rfl
@[simp] theorem State.beginCycle_key (s : State) (w : FixedBytes Config.windowLen) : (s.beginCycle w).key = s.key := rfl
@[simp] theorem State.beginCycle_win (s : State) (w : FixedBytes Config.windowLen) : (s.beginCycle w).win = some w := rfl
@[simp] theorem State.beginCycle_mbusStart (s : State) (w : FixedBytes Config.windowLen) : (s.beginCycle w).mbusStart = none := rfl
@[simp] theorem State.beginCycle_frameLen (s : State) (w : FixedBytes Config.windowLen) : (s.beginCycle w).frameLen = none := rfl
@[simp] theorem State.beginCycle_sysTitle (s : State) (w : FixedBytes Config.windowLen) : (s.beginCycle w).sysTitle = none := rfl
@[simp] theorem State.beginCycle_frameCtr (s : State) (w : FixedBytes Config.windowLen) : (s.beginCycle w).frameCtr = none := rfl
@[simp] theorem State.beginCycle_ctLen (s : State) (w : FixedBytes Config.windowLen) : (s.beginCycle w).ctLen = none := rfl
@[simp] theorem State.beginCycle_apduLen (s : State) (w : FixedBytes Config.windowLen) : (s.beginCycle w).apduLen = none := rfl
@[simp] theorem State.beginCycle_apdu (s : State) (w : FixedBytes Config.windowLen) : (s.beginCycle w).apdu = none := rfl
@[simp] theorem State.beginCycle_getresp (s : State) (w : FixedBytes Config.windowLen) : (s.beginCycle w).getresp = false := rfl
@[simp] theorem State.beginCycle_err (s : State) (w : FixedBytes Config.windowLen) : (s.beginCycle w).err = .none := rfl
@[simp] theorem State.beginCycle_cstat (s : State) (w : FixedBytes Config.windowLen) : (s.beginCycle w).cstat = s.cstat := rfl
@[simp] theorem State.beginCycle_out (s : State) (w : FixedBytes Config.windowLen) : (s.beginCycle w).out = s.out := rfl
@[simp] theorem State.beginCycle_inputs (s : State) (w : FixedBytes Config.windowLen) : (s.beginCycle w).inputs = s.inputs := rfl

@[simp] theorem State.abandonCycle_phase (s : State) : s.abandonCycle.phase = .idle := rfl
@[simp] theorem State.abandonCycle_key (s : State) : s.abandonCycle.key = s.key := rfl
@[simp] theorem State.abandonCycle_win (s : State) : s.abandonCycle.win = none := rfl
@[simp] theorem State.abandonCycle_mbusStart (s : State) : s.abandonCycle.mbusStart = none := rfl
@[simp] theorem State.abandonCycle_frameLen (s : State) : s.abandonCycle.frameLen = none := rfl
@[simp] theorem State.abandonCycle_sysTitle (s : State) : s.abandonCycle.sysTitle = none := rfl
@[simp] theorem State.abandonCycle_frameCtr (s : State) : s.abandonCycle.frameCtr = none := rfl
@[simp] theorem State.abandonCycle_ctLen (s : State) : s.abandonCycle.ctLen = none := rfl
@[simp] theorem State.abandonCycle_apduLen (s : State) : s.abandonCycle.apduLen = none := rfl
@[simp] theorem State.abandonCycle_apdu (s : State) : s.abandonCycle.apdu = none := rfl
@[simp] theorem State.abandonCycle_getresp (s : State) : s.abandonCycle.getresp = false := rfl
@[simp] theorem State.abandonCycle_err (s : State) : s.abandonCycle.err = .none := rfl
@[simp] theorem State.abandonCycle_cstat (s : State) : s.abandonCycle.cstat = s.cstat := rfl
@[simp] theorem State.abandonCycle_out (s : State) : s.abandonCycle.out = s.out := rfl
@[simp] theorem State.abandonCycle_inputs (s : State) : s.abandonCycle.inputs = s.inputs := rfl

@[simp] theorem State.storeEnvelope_phase (s : State) (e : Envelope) : (s.storeEnvelope e).phase = .envelope := rfl
@[simp] theorem State.storeEnvelope_key (s : State) (e : Envelope) : (s.storeEnvelope e).key = s.key := rfl
@[simp] theorem State.storeEnvelope_win (s : State) (e : Envelope) : (s.storeEnvelope e).win = s.win := rfl
@[simp] theorem State.storeEnvelope_mbusStart (s : State) (e : Envelope) : (s.storeEnvelope e).mbusStart = some e.mbusStart := rfl
@[simp] theorem State.storeEnvelope_frameLen (s : State) (e : Envelope) : (s.storeEnvelope e).frameLen = some e.frameLen := rfl
@[simp] theorem State.storeEnvelope_sysTitle (s : State) (e : Envelope) : (s.storeEnvelope e).sysTitle = some e.sysTitle := rfl
@[simp] theorem State.storeEnvelope_frameCtr (s : State) (e : Envelope) : (s.storeEnvelope e).frameCtr = some e.frameCtr := rfl
@[simp] theorem State.storeEnvelope_ctLen (s : State) (e : Envelope) : (s.storeEnvelope e).ctLen = some e.ctLen := rfl
@[simp] theorem State.storeEnvelope_apduLen (s : State) (e : Envelope) : (s.storeEnvelope e).apduLen = s.apduLen := rfl
@[simp] theorem State.storeEnvelope_apdu (s : State) (e : Envelope) : (s.storeEnvelope e).apdu = s.apdu := rfl
@[simp] theorem State.storeEnvelope_getresp (s : State) (e : Envelope) : (s.storeEnvelope e).getresp = s.getresp := rfl
@[simp] theorem State.storeEnvelope_err (s : State) (e : Envelope) : (s.storeEnvelope e).err = s.err := rfl
@[simp] theorem State.storeEnvelope_cstat (s : State) (e : Envelope) : (s.storeEnvelope e).cstat = s.cstat := rfl
@[simp] theorem State.storeEnvelope_out (s : State) (e : Envelope) : (s.storeEnvelope e).out = s.out := rfl
@[simp] theorem State.storeEnvelope_inputs (s : State) (e : Envelope) : (s.storeEnvelope e).inputs = s.inputs := rfl

@[simp] theorem State.releaseApdu_phase (s : State) (p : Bytes) : (s.releaseApdu p).phase = .done := rfl
@[simp] theorem State.releaseApdu_key (s : State) (p : Bytes) : (s.releaseApdu p).key = s.key := rfl
@[simp] theorem State.releaseApdu_win (s : State) (p : Bytes) : (s.releaseApdu p).win = none := rfl
@[simp] theorem State.releaseApdu_mbusStart (s : State) (p : Bytes) : (s.releaseApdu p).mbusStart = s.mbusStart := rfl
@[simp] theorem State.releaseApdu_frameLen (s : State) (p : Bytes) : (s.releaseApdu p).frameLen = s.frameLen := rfl
@[simp] theorem State.releaseApdu_sysTitle (s : State) (p : Bytes) : (s.releaseApdu p).sysTitle = s.sysTitle := rfl
@[simp] theorem State.releaseApdu_frameCtr (s : State) (p : Bytes) : (s.releaseApdu p).frameCtr = s.frameCtr := rfl
@[simp] theorem State.releaseApdu_ctLen (s : State) (p : Bytes) : (s.releaseApdu p).ctLen = s.ctLen := rfl
@[simp] theorem State.releaseApdu_apduLen (s : State) (p : Bytes) : (s.releaseApdu p).apduLen = some (BitVec.ofNat 8 p.length) := rfl
@[simp] theorem State.releaseApdu_apdu (s : State) (p : Bytes) : (s.releaseApdu p).apdu = some p := rfl
@[simp] theorem State.releaseApdu_getresp (s : State) (p : Bytes) : (s.releaseApdu p).getresp = getrespOf p := rfl
@[simp] theorem State.releaseApdu_err (s : State) (p : Bytes) : (s.releaseApdu p).err = s.err := rfl
@[simp] theorem State.releaseApdu_cstat (s : State) (p : Bytes) : (s.releaseApdu p).cstat = s.cstat := rfl
@[simp] theorem State.releaseApdu_out (s : State) (p : Bytes) : (s.releaseApdu p).out = s.out := rfl
@[simp] theorem State.releaseApdu_inputs (s : State) (p : Bytes) : (s.releaseApdu p).inputs = s.inputs := rfl

@[simp] theorem State.applyReset_phase (s : State) : s.applyReset.phase = .idle := rfl
@[simp] theorem State.applyReset_key (s : State) : s.applyReset.key = none := rfl
@[simp] theorem State.applyReset_win (s : State) : s.applyReset.win = none := rfl
@[simp] theorem State.applyReset_mbusStart (s : State) : s.applyReset.mbusStart = none := rfl
@[simp] theorem State.applyReset_frameLen (s : State) : s.applyReset.frameLen = none := rfl
@[simp] theorem State.applyReset_sysTitle (s : State) : s.applyReset.sysTitle = none := rfl
@[simp] theorem State.applyReset_frameCtr (s : State) : s.applyReset.frameCtr = none := rfl
@[simp] theorem State.applyReset_ctLen (s : State) : s.applyReset.ctLen = none := rfl
@[simp] theorem State.applyReset_apduLen (s : State) : s.applyReset.apduLen = none := rfl
@[simp] theorem State.applyReset_apdu (s : State) : s.applyReset.apdu = none := rfl
@[simp] theorem State.applyReset_getresp (s : State) : s.applyReset.getresp = false := rfl
@[simp] theorem State.applyReset_err (s : State) : s.applyReset.err = .none := rfl
@[simp] theorem State.applyReset_cstat (s : State) : s.applyReset.cstat = .ok := rfl
@[simp] theorem State.applyReset_out (s : State) : s.applyReset.out = s.out := rfl
@[simp] theorem State.applyReset_inputs (s : State) : s.applyReset.inputs = s.inputs := rfl

end Sys2Proof.Machine
end

