-- ==== Sys2Proof/Laws/Ops.lean ====
section
/-! SUPPORT. What each shared operation, each meaning and each agent's step can do, said once, and the canonical form
of the byte buffers under every operation. Proofs cite these instead of unfolding the definitions. -/

namespace Sys2Proof.Machine

/-! ## Operands -/

@[simp] theorem operandOf_bytes {n : Nat} (k : FixedBytes n) : operandOf n k.bytes = some k := by
  simp [operandOf, k.size]

/-- An operand is taken exactly where its length fits, and then byte for byte. -/
theorem operandOf_eq_some {n : Nat} {data : Bytes} {k : FixedBytes n} :
    operandOf n data = some k ↔ k.bytes = data := by
  constructor
  · intro h
    unfold operandOf at h
    split at h
    · cases h; rfl
    · cases h
  · rintro rfl
    exact operandOf_bytes k

theorem operandOf_eq_none {n : Nat} {data : Bytes} : operandOf n data = none ↔ data.length ≠ n := by
  simp [operandOf]

/-- Rule R62: the span of an 8-bit length lies within the window, so it has that length. -/
theorem spanOf_length (w : FixedBytes Config.windowLen) (n : BitVec 8) : (spanOf w n).length = n.toNat := by
  have hn := n.isLt
  have hw : w.bytes.length = 282 := w.size
  simp [spanOf, memRead, offCt, hw]
  omega

/-! ## What each meaning can do -/

/-- Everything `LDKEY` can do. -/
theorem execLdkey_cases {data : Bytes} {s t : State} (h : execLdkey data s = .next t) :
    (data.length ≠ Config.keyLen ∧ t = s.refuse .badLength) ∨
      (∃ k : FixedBytes Config.keyLen, k.bytes = data ∧
        ((s.phase = .idle ∧ t = (s.storeKey k).accept) ∨ (s.phase ≠ .idle ∧ t = s.refuse .seq))) := by
  unfold execLdkey at h
  split at h
  · rename_i hn
    cases h
    exact .inl ⟨operandOf_eq_none.1 hn, rfl⟩
  · rename_i k hk
    refine .inr ⟨k, operandOf_eq_some.1 hk, ?_⟩
    split at h <;> cases h
    · exact .inl ⟨‹_›, rfl⟩
    · exact .inr ⟨‹_›, rfl⟩

/-- Everything `LDWIN` can do. -/
theorem execLdwin_cases {data : Bytes} {s t : State} (h : execLdwin data s = .next t) :
    (data.length ≠ Config.windowLen ∧ t = s.refuse .badLength) ∨
      (∃ w : FixedBytes Config.windowLen, w.bytes = data ∧
        ((s.phase ≠ .recover ∧ t = (s.beginCycle w).accept) ∨ (s.phase = .recover ∧ t = s.refuse .seq))) := by
  unfold execLdwin at h
  split at h
  · rename_i hn
    cases h
    exact .inl ⟨operandOf_eq_none.1 hn, rfl⟩
  · rename_i w hw
    refine .inr ⟨w, operandOf_eq_some.1 hw, ?_⟩
    split at h <;> cases h
    · exact .inr ⟨‹_›, rfl⟩
    · exact .inl ⟨‹_›, rfl⟩

/-- Everything `CLR` can do. -/
theorem execClr_cases {s t : State} (h : execClr s = .next t) :
    (s.phase ≠ .recover ∧ t = s.abandonCycle.accept) ∨ (s.phase = .recover ∧ t = s.refuse .seq) := by
  unfold execClr at h
  split at h <;> cases h
  · exact .inr ⟨‹_›, rfl⟩
  · exact .inl ⟨‹_›, rfl⟩

/-- Everything `SPLIT` can do. -/
theorem execSplit_cases {s t : State} (h : execSplit s = .next t) :
    (s.phase ≠ .loaded ∧ t = s.refuse .seq) ∨
      (∃ w, s.phase = .loaded ∧ s.win = some w ∧
        ((validWindow w = true ∧ t = s.accept.storeEnvelope (envelopeOf w)) ∨
          (validWindow w = false ∧ t = s.accept.raise .frameInvalid))) := by
  unfold execSplit at h
  split at h
  · rename_i hp
    split at h
    · cases h
    · rename_i w hw
      refine .inr ⟨w, hp, hw, ?_⟩
      split at h <;> cases h
      · exact .inl ⟨‹_›, rfl⟩
      · exact .inr ⟨by simpa using ‹¬validWindow w = true›, rfl⟩
  · cases h
    exact .inl ⟨‹_›, rfl⟩

/-- Everything `DECRYPT` can do. -/
theorem decryptWith_cases {tl : Config.TagLen} {a : Config.Aad} {s t : State} (h : decryptWith tl a s = .next t) :
    (s.phase ≠ .envelope ∧ t = s.refuse .seq) ∨ (s.phase = .envelope ∧ s.key = none ∧ t = s.refuse .nokey) ∨
      (∃ k w n title ctr, s.phase = .envelope ∧ s.key = some k ∧ s.win = some w ∧ s.ctLen = some n ∧
        s.sysTitle = some title ∧ s.frameCtr = some ctr ∧ t = decryptCycle tl a k title ctr (spanOf w n) s) := by
  unfold decryptWith at h
  split at h
  · rename_i hp
    split at h
    · rename_i hk
      cases h
      exact .inr (.inl ⟨hp, hk, rfl⟩)
    · rename_i k hk
      split at h <;> cases h
      rename_i w n title ctr hw hn ht hc
      exact .inr (.inr ⟨k, w, n, title, ctr, hp, hk, hw, hn, ht, hc, rfl⟩)
  · cases h
    exact .inl ⟨‹_›, rfl⟩

/-- The three ways an authenticated decryption ends. -/
theorem decryptCycle_cases (tl : Config.TagLen) (a : Config.Aad) (k : FixedBytes Config.keyLen)
    (title : FixedBytes Config.titleLen) (ctr : FixedBytes Config.ctrLen) (span : Bytes) (s : State) :
    (span.length < tl.len ∧
      decryptCycle tl a k title ctr span s = s.accept.raise (.decryptError .len)) ∨
    (tl.len ≤ span.length ∧
      expectedTag k (nonceOf title ctr) a.bytes (span.take (span.length - tl.len)) tl.len ≠
        span.drop (span.length - tl.len) ∧
      decryptCycle tl a k title ctr span s = s.accept.raise (.decryptError .tag)) ∨
    (tl.len ≤ span.length ∧
      expectedTag k (nonceOf title ctr) a.bytes (span.take (span.length - tl.len)) tl.len =
        span.drop (span.length - tl.len) ∧
      decryptCycle tl a k title ctr span s =
        s.accept.releaseApdu (gcmStream k (nonceOf title ctr) (span.take (span.length - tl.len)))) := by
  by_cases hl : span.length < tl.len
  · exact .inl ⟨hl, by simp [decryptCycle, authDecrypt, hl]⟩
  · by_cases ht : expectedTag k (nonceOf title ctr) a.bytes (span.take (span.length - tl.len)) tl.len =
        span.drop (span.length - tl.len)
    · exact .inr (.inr ⟨by omega, ht, by simp [decryptCycle, authDecrypt, hl, ht]⟩)
    · exact .inr (.inl ⟨by omega, ht, by simp [decryptCycle, authDecrypt, hl, ht]⟩)

/-- Everything `TEXP` can do. -/
theorem timerExpiry_cases {s t : State} (h : timerExpiry s = .next t) : s.phase = .recover ∧ t = s.endPause := by
  unfold timerExpiry at h
  split at h <;> cases h
  exact ⟨‹_›, rfl⟩

/-! ## What each agent's step can do -/

/-- Everything a presented frame can do: its command's effect, or a refusal. -/
theorem frameStep_cases {f : Bytes} {s t : State} (h : frameStep f s = .next t) :
    (∃ i, decode f = .ok i ∧ exec i s = .next t) ∨ (∃ e, decode f = .error e ∧ t = s.refuse (decodeRefusal e)) := by
  unfold frameStep at h
  split at h
  · exact .inl ⟨_, ‹_›, h⟩
  · cases h
    exact .inr ⟨_, ‹_›, rfl⟩

/-- Everything one step can do. -/
theorem step_cases {s t : State} (h : step s = .next t) :
    (s.inputs = [] ∧ s.phase = .recover ∧ t = s.endPause) ∨ (s.inputs = [] ∧ s.phase ≠ .recover ∧ t = s) ∨
      (∃ rest, s.inputs = .timer :: rest ∧ s.phase = .recover ∧ t = { s with inputs := rest }.endPause) ∨
      (∃ rest, s.inputs = .reset :: rest ∧ t = { s with inputs := rest }.applyReset) ∨
      (∃ f rest, s.inputs = .frame f :: rest ∧ frameStep f { s with inputs := rest } = .next t) := by
  unfold step at h
  split at h
  · rename_i hi
    unfold quietStep at h
    split at h
    · exact .inl ⟨hi, timerExpiry_cases h⟩
    · cases h
      exact .inr (.inl ⟨hi, ‹_›, rfl⟩)
  · rename_i e rest hi
    cases e with
    | frame f => exact .inr (.inr (.inr (.inr ⟨f, rest, hi, h⟩)))
    | timer => exact .inr (.inr (.inl ⟨rest, hi, timerExpiry_cases h⟩))
    | reset =>
      cases h
      exact .inr (.inr (.inr (.inl ⟨rest, hi, rfl⟩)))

theorem step_frame {s : State} {f : Bytes} {rest : List Input} (h : s.inputs = .frame f :: rest) :
    step s = frameStep f { s with inputs := rest } := by
  simp [step, h, inputStep]

theorem step_timer {s : State} {rest : List Input} (h : s.inputs = .timer :: rest) :
    step s = timerExpiry { s with inputs := rest } := by
  simp [step, h, inputStep]

theorem step_reset {s : State} {rest : List Input} (h : s.inputs = .reset :: rest) :
    step s = .next { s with inputs := rest }.applyReset := by
  simp [step, h, inputStep, resetStep]

theorem step_quiet {s : State} (h : s.inputs = []) : step s = quietStep s := by
  simp [step, h]

/-! ## The canonical form of the byte buffers -/

theorem memory_wf_reset : Memory.wf State.reset = true := rfl

@[simp] theorem memory_wf_refuse (s : State) (c : RefuseCause) : Memory.wf (s.refuse c) = Memory.wf s := rfl

@[simp] theorem memory_wf_accept (s : State) : Memory.wf s.accept = Memory.wf s := rfl

@[simp] theorem memory_wf_endCycle (s : State) : Memory.wf s.endCycle = true := rfl

@[simp] theorem memory_wf_raise (s : State) (e : CycleError) : Memory.wf (s.raise e) = true := rfl

@[simp] theorem memory_wf_endPause (s : State) : Memory.wf s.endPause = Memory.wf s := rfl

@[simp] theorem memory_wf_storeKey (s : State) (k : FixedBytes Config.keyLen) :
    Memory.wf (s.storeKey k) = Memory.wf s := rfl

@[simp] theorem memory_wf_beginCycle (s : State) (w : FixedBytes Config.windowLen) :
    Memory.wf (s.beginCycle w) = true := rfl

@[simp] theorem memory_wf_abandonCycle (s : State) : Memory.wf s.abandonCycle = true := rfl

@[simp] theorem memory_wf_storeEnvelope (s : State) (e : Envelope) : Memory.wf (s.storeEnvelope e) = Memory.wf s := rfl

@[simp] theorem memory_wf_applyReset (s : State) : Memory.wf s.applyReset = true := rfl

/-- A released APDU of at most 231 bytes keeps the form. -/
theorem memory_wf_releaseApdu (s : State) {p : Bytes} (h : p.length ≤ 231) : Memory.wf (s.releaseApdu p) = true := by
  have : p.length % 256 = p.length := Nat.mod_eq_of_lt (by omega)
  simp [Memory.wf, this, h]

end Sys2Proof.Machine
end

