-- ==== Sys2Proof/Laws/PerInstr.lean ====
section
/-! SUPPORT. Per-instruction laws over the syntax: the frame of a well-formed command has the length that its first
byte tells (30_encoding.md rules R71, R76). -/

namespace Sys2Proof.Laws

/-- The encoding of `i`, if `i` is well formed, has the frame length of its row: 17, 283 or 1 bytes, which is also the
length its first byte tells. -/
def FrameLength.Statement (i : Instr) : Prop :=
  i.wellFormed = true →
    (encode i).length = 1 + i.opcode.operandLen ∧ (encode i).length = frameLenOf i.opcode.byte

theorem FrameLength.ldkey (data : Bytes) : FrameLength.Statement (.ldkey data) := by
  intro h
  simp [Instr.wellFormed] at h
  simp [encode, Instr.opcode, Instr.operand, Opcode.operandLen, Opcode.byte, frameLenOf, opcodeOf, h, Nat.add_comm]

theorem FrameLength.ldwin (data : Bytes) : FrameLength.Statement (.ldwin data) := by
  intro h
  simp [Instr.wellFormed] at h
  simp [encode, Instr.opcode, Instr.operand, Opcode.operandLen, Opcode.byte, frameLenOf, opcodeOf, h, Nat.add_comm]

theorem FrameLength.split : FrameLength.Statement .split := fun _ => by decide

theorem FrameLength.decrypt : FrameLength.Statement .decrypt := fun _ => by decide

theorem FrameLength.clr : FrameLength.Statement .clr := fun _ => by decide

end Sys2Proof.Laws
end

