-- ==== Sys2Proof/Laws/Window.lean ====
section
/-! SUPPORT. The examined bytes of a window (rules R55, R83): what `SPLIT` and `DECRYPT` read of two windows that agree
on them is the same, and how two states that differ in unexamined bytes only look. -/

namespace Sys2Proof.Machine

theorem SameExamined.refl (w : FixedBytes Config.windowLen) : SameExamined w w := fun _ _ _ => rfl

theorem SameExaminedWin.refl (o : Option (FixedBytes Config.windowLen)) : SameExaminedWin o o := by
  cases o <;> constructor
  exact SameExamined.refl _

/-- The offsets that are examined whatever byte 1 is. -/
theorem SameExamined.byte_eq {w w' : FixedBytes Config.windowLen} (h : SameExamined w w') (i : Nat)
    (hi : i < Config.windowLen) (he : i ≤ 3 ∨ (11 ≤ i ∧ i ≤ 18) ∨ (22 ≤ i ∧ i ≤ 25)) :
    windowByte w i hi = windowByte w' i hi :=
  h i hi (by simp [examinedOffset]; omega)

/-- Two windows that agree on a range of offsets have the same bytes there. -/
theorem memRead_congr {w w' : FixedBytes Config.windowLen} (a n : Nat)
    (h : ∀ i (hi : i < Config.windowLen), a ≤ i → i < a + n → windowByte w i hi = windowByte w' i hi) :
    memRead w a n = memRead w' a n := by
  have byteAt (v : FixedBytes Config.windowLen) (i : Nat) (hi : i < Config.windowLen) :
      v.bytes[i]? = some (windowByte v i hi) := v.get_eq ⟨i, hi⟩
  apply List.ext_getElem?
  intro i
  simp only [memRead, List.getElem?_take, List.getElem?_drop]
  split
  · by_cases hi : a + i < Config.windowLen
    · rw [byteAt w _ hi, byteAt w' _ hi, h _ hi (by omega) (by omega)]
    · rw [List.getElem?_eq_none (by rw [w.size]; omega), List.getElem?_eq_none (by rw [w'.size]; omega)]
  · rfl

theorem validWindow_congr {w w' : FixedBytes Config.windowLen} (h : SameExamined w w') :
    validWindow w = validWindow w' := by
  simp only [validWindow, offLen0, offLen1, offMarker2]
  rw [h.byte_eq 0 (by decide) (by omega), h.byte_eq 1 (by decide) (by omega), h.byte_eq 2 (by decide) (by omega),
    h.byte_eq 3 (by decide) (by omega)]

theorem envelopeOf_congr {w w' : FixedBytes Config.windowLen} (h : SameExamined w w') :
    envelopeOf w = envelopeOf w' := by
  simp only [envelopeOf, offLen0]
  rw [h.byte_eq 1 (by decide) (by omega)]
  congr 1 <;> apply FixedBytes.eq_of_bytes <;> simp only [FixedBytes.slice_bytes] <;> apply memRead_congr <;>
    intro i hi ha hb <;> apply h.byte_eq i hi <;>
    simp [offTitle, offCtr, Config.startLen, Config.titleLen, Config.ctrLen] at ha hb <;> omega

/-- `CT_LEN = max(0, frame_len - 20)`, which an 8-bit register holds without wrapping (rule R124). -/
theorem ctLenOf_toNat (b : Byte) : (BitVec.ofNat 8 (ctLenOf b)).toNat = b.toNat - 20 := by
  have := b.isLt
  simp [ctLenOf, spanEnd, offCt, frameOverhead]
  split <;> omega

theorem envelopeOf_ctLen_toNat (w : FixedBytes Config.windowLen) :
    (envelopeOf w).ctLen.toNat = (windowByte w 1).toNat - 20 := ctLenOf_toNat _

/-- The span that a window's own envelope delimits. -/
theorem spanOf_congr {w w' : FixedBytes Config.windowLen} (h : SameExamined w w') :
    spanOf w (envelopeOf w).ctLen = spanOf w' (envelopeOf w').ctLen := by
  rw [← envelopeOf_congr h]
  apply memRead_congr
  intro i hi ha hb
  apply h i hi
  rw [envelopeOf_ctLen_toNat] at hb
  simp [examinedOffset, offCt] at ha hb ⊢
  omega

end Sys2Proof.Machine
end

