-- ==== Sys2Proof/Tests/Slice0.lean ====
section
/-! SUPPORT. Tests: the WellFormed smoke, decoding of frames written out from the table of rule R71, vectors of
spec/95_test_vectors.md (the vector's name stands in each docstring), and for every statement with hypotheses a
concrete state that meets them (`witness_<statement>`). -/

namespace Sys2Proof.Tests

open Sys2Proof.Machine

/-! ## Helpers -/

/-- Whether an outcome is a next state with the property. -/
def nextWith (r : Result) (p : State → Bool) : Bool :=
  match r with
  | .next t => p t
  | _ => false

theorem exists_next {r : Result} {p : State → Bool} (h : nextWith r p = true) : ∃ t, r = .next t ∧ p t = true := by
  cases r with
  | next t => exact ⟨t, rfl, h⟩
  | fault _ => cases h
  | refused _ => cases h

/-- The common data of the vectors. -/
def key : FixedBytes 16 := .ofNat 16 0x000102030405060708090A0B0C0D0E0F
def title : FixedBytes 8 := .ofNat 8 0x534D545200000001
def ctr : FixedBytes 4 := .ofNat 4 0x0000002A

/-- The window builder of 95_test_vectors.md: the first four bytes as an integer, then the span. -/
def window (start : Nat) (span : Bytes) : FixedBytes 282 :=
  .ofBytes 282 (beBytes 4 start ++ beBytes 7 0x11223344556677 ++ title.bytes ++ beBytes 3 0x998877 ++ ctr.bytes ++ span ++
    List.replicate 282 0xCC#8)

/-- The span of V20, `C ‖ T` with `TAG_LEN` = 12. -/
def span20 : Bytes := beBytes 28 0x326A30579094A0BF0E8BC0A55A097DB9D89541815B22BBE079F9A090

def w20 : FixedBytes 282 := window 0x68303068 span20

def loadedState (w : FixedBytes 282) : State := { State.reset with phase := .loaded, key := some key, win := some w }

def envelopeState (w : FixedBytes 282) : State := (loadedState w).storeEnvelope (envelopeOf w)

def recoverState : State := { State.reset with phase := .recover, err := .frameInvalid, key := some key }

/-! ## WellFormed: each check refuses an ill-formed command -/

theorem test_wf_ldkey_15_bytes : (Instr.ldkey (List.replicate 15 0#8)).wellFormed = false := by decide

theorem test_wf_ldwin_281_bytes : (Instr.ldwin (List.replicate 281 0#8)).wellFormed = false := by decide +kernel

/-! ## Decoding: frames written out from the table of rule R71 -/

theorem test_decode_ldkey :
    decode [0x01#8, 0xA0#8, 0xA1#8, 0xA2#8, 0xA3#8, 0xA4#8, 0xA5#8, 0xA6#8, 0xA7#8, 0xA8#8, 0xA9#8, 0xAA#8, 0xAB#8, 0xAC#8,
      0xAD#8, 0xAE#8, 0xAF#8] =
    .ok (.ldkey [0xA0#8, 0xA1#8, 0xA2#8, 0xA3#8, 0xA4#8, 0xA5#8, 0xA6#8, 0xA7#8, 0xA8#8, 0xA9#8, 0xAA#8, 0xAB#8, 0xAC#8,
      0xAD#8, 0xAE#8, 0xAF#8]) := by decide

theorem test_decode_ldwin :
    decode (0x02#8 :: List.replicate 282 0xCC#8) = .ok (.ldwin (List.replicate 282 0xCC#8)) := by decide +kernel

theorem test_decode_split : decode [0x03#8] = .ok .split := by decide

theorem test_decode_decrypt : decode [0x04#8] = .ok .decrypt := by decide

theorem test_decode_clr : decode [0x05#8] = .ok .clr := by decide

/-- V4, V5: unknown opcodes, also with a key's length behind them, and the empty frame. -/
theorem test_decode_unknown :
    decode [0x00#8] = .error .unknownOp ∧ decode [0x06#8] = .error .unknownOp ∧ decode [0xFF#8] = .error .unknownOp ∧
      decode (0x00#8 :: key.bytes) = .error .unknownOp ∧ decode [] = .error .unknownOp := by decide

/-- V3, V9 and P3 steps 12 to 14: a known opcode with a wrong length. -/
theorem test_decode_bad_length :
    decode (0x01#8 :: List.replicate 15 0#8) = .error .badLength ∧
      decode (0x01#8 :: List.replicate 17 0#8) = .error .badLength ∧ decode [0x02#8] = .error .badLength ∧
      decode (0x02#8 :: List.replicate 281 0#8) = .error .badLength ∧ decode [0x03#8, 0#8] = .error .badLength := by
  decide +kernel

theorem test_table_words :
    decodeTableWord 8 1 = some (.ldkey (List.replicate 16 0#8)) ∧ decodeTableWord 8 3 = some .split ∧
      decodeTableWord 8 4 = some .decrypt ∧ decodeTableWord 8 5 = some .clr ∧ decodeTableWord 8 6 = none := by
  decide +kernel

/-- V2 as the first instruction after reset: the key is loaded, `STATUS` = 0x0008. -/
theorem test_fetched_ldkey_runs :
    nextWith (step (State.reset.withFetchWord 8 1)) (fun t => t.status == 0x0008#16 && t.inputs == []) = true := by
  decide +kernel

/-! ## The commands -/

/-- V2: `KEY` loaded; `STATUS` = 0x0008. -/
theorem test_ldkey_loads :
    nextWith (exec (.ldkey key.bytes) State.reset) (fun t => t.key == some key && t.status == 0x0008#16) = true := by
  decide +kernel

/-- V7: `LDKEY` in LOADED is refused SEQ; `STATUS` = 0x3001 without a key. -/
theorem test_ldkey_refused :
    nextWith (exec (.ldkey key.bytes) { State.reset with phase := .loaded, win := some w20 })
      (fun t => t.key == none && t.status == 0x3001#16) = true := by
  decide +kernel

/-- V6: `LDWIN` without a key; `STATUS` = 0x0001. -/
theorem test_ldwin_loads :
    nextWith (exec (.ldwin w20.bytes) State.reset) (fun t => t.win == some w20 && t.status == 0x0001#16) = true := by
  decide +kernel

/-- P2 step 5: `LDWIN` in RECOVER is refused SEQ; `STATUS` = 0x310C. -/
theorem test_ldwin_refused_in_recover :
    nextWith (exec (.ldwin w20.bytes) recoverState) (fun t => t.win == none && t.status == 0x310C#16) = true := by
  decide +kernel

/-- V16a: the envelope of a window that begins 68 FA FA 68; `STATUS` = 0x001A. -/
theorem test_split_valid :
    nextWith (exec .split (loadedState (window 0x68FAFA68 []))) (fun t =>
      t.mbusStart == some (.ofNat 4 0x68FAFA68) && t.frameLen == some 250#8 && t.sysTitle == some title &&
        t.frameCtr == some ctr && t.ctLen == some 230#8 && t.status == 0x001A#16) = true := by
  decide +kernel

/-- V17: bytes 1 and 2 differ; RECOVER, `STATUS` = 0x010C. -/
theorem test_split_invalid :
    nextWith (exec .split (loadedState (window 0x68FAFB68 []))) (fun t => t.win == none && t.status == 0x010C#16) = true := by
  decide +kernel

/-- V16 and V18, and the corner lengths V16b, V16e, V16f and V16h. -/
theorem test_window_checks :
    validWindow (window 0x69FAFA68 []) = false ∧ validWindow (window 0x68FAFA16 []) = false ∧ ctLenOf 0#8 = 0 ∧
      ctLenOf 20#8 = 0 ∧ ctLenOf 21#8 = 1 ∧ ctLenOf 255#8 = 235 := by
  decide +kernel

/-- V20: `TAG_LEN` = 12, no AAD; the APDU is released, `GETRESP` = 1, `STATUS` = 0x007B. -/
theorem test_decrypt_v20 :
    nextWith (decryptWith .t12 {} (envelopeState w20)) (fun t =>
      t.apdu == some (beBytes 16 0x0F8000000001020304050607080910AB) && t.apduLen == some 16#8 && t.win == none &&
        t.status == 0x007B#16) = true := by
  decide +kernel

/-- V25: the last span byte flipped; `DecryptError`(TAG), `STATUS` = 0x0308, no APDU. -/
theorem test_decrypt_v25 :
    nextWith (decryptWith .t12 {} (envelopeState (window 0x68303068 (span20.take 27 ++ [0x91#8])))) (fun t =>
      t.apdu == none && t.sysTitle == none && t.status == 0x0308#16) = true := by
  decide +kernel

/-- V10: `CLR` in LOADED; `STATUS` = 0x0008 with a key. -/
theorem test_clr :
    nextWith (exec .clr (loadedState w20)) (fun t => t.win == none && t.status == 0x0008#16) = true := by
  decide +kernel

/-- P2 step 8: `TEXP` in RECOVER after a refusal; `STATUS` = 0x3108, one `ResyncReq`. -/
theorem test_texp :
    nextWith (step { recoverState with cstat := .seq, inputs := [.timer] })
      (fun t => t.out == [.resyncReq] && t.status == 0x3108#16) = true := by
  decide +kernel

/-- V13: no `TEXP` in IDLE. -/
theorem test_texp_not_enabled_in_idle : timerExpiry State.reset = .fault .timerNotEnabled := rfl

/-! ## The cipher, against the public values -/

/-- FIPS 197 Appendix B. -/
theorem test_aes_fips197_b :
    aes (.ofNat 16 0x2B7E151628AED2A6ABF7158809CF4F3C) (.ofNat 16 0x3243F6A8885A308D313198A2E0370734) =
      .ofNat 16 0x3925841D02DC09FBDC118597196A0B32 := by
  decide +kernel

/-- Rule R178 and 95_test_vectors.md section 4. -/
theorem test_gf8 :
    xtime 0x57#8 = 0xAE#8 ∧ xtime 0x80#8 = 0x1B#8 ∧ gf8Mul 0x57#8 0x13#8 = 0xFE#8 ∧ gf8Mul 0x57#8 0x83#8 = 0xC1#8 ∧
      gf8Inv 0x53#8 = 0xCA#8 ∧ rcon 9 = 0x1B#8 ∧ rcon 10 = 0x36#8 := by
  decide +kernel

/-- 95_test_vectors.md section 4, and the table against its formula at the same places. -/
theorem test_sbox :
    [0x00#8, 0x01#8, 0x10#8, 0x53#8, 0x9A#8, 0xCA#8, 0xFF#8].map sbox =
        [0x63#8, 0x7C#8, 0xCA#8, 0xED#8, 0xB8#8, 0x74#8, 0x16#8] ∧
      [0x00#8, 0x01#8, 0x10#8, 0x53#8, 0x9A#8, 0xCA#8, 0xFF#8].map sboxFormula =
        [0x63#8, 0x7C#8, 0xCA#8, 0xED#8, 0xB8#8, 0x74#8, 0x16#8] := by
  decide +kernel

/-- Rule R175's example column. -/
theorem test_mix_columns :
    mixColumns (.ofNat 16 0xDB135345DB135345DB135345DB135345) = .ofNat 16 0x8E4DA1BC8E4DA1BC8E4DA1BC8E4DA1BC := by
  decide +kernel

/-- 95_test_vectors.md section 5.1: the wrap of the counter, without a carry into byte 11. -/
theorem test_inc32 :
    inc32 (.ofNat 16 0xFFFFFFFFFFFFFFFFFFFFFFFFFFFFFFFF) = .ofNat 16 0xFFFFFFFFFFFFFFFFFFFFFFFF00000000 := by
  decide +kernel

/-- 95_test_vectors.md section 5.1: products of blocks. -/
theorem test_block_mul :
    blockMul (.ofNat 16 1) (.ofNat 16 1) = .ofNat 16 0xE6080000000000000000000000000003 ∧
      blockMul (.ofNat 16 0x0388DACE60B6A392F328C2B971B2FE78) (.ofNat 16 0x66E94BD4EF8A2C3B884CFA59CA342B2E) =
        .ofNat 16 0x5E2EC746917062882C85B0685353DEB7 := by
  decide +kernel

/-- V27: `GHASH` with a 17-byte AAD and a 16-byte ciphertext. -/
theorem test_ghash_v27 :
    ghash (.ofNat 16 0xC6A13B37878F5B826F4F8162A1C8D879)
      (ghashIn (beBytes 17 0x30D0D1D2D3D4D5D6D7D8D9DADBDCDDDEDF) (beBytes 16 0x326A30579094A0BF0E8BC0A55A097DB9)) =
      .ofNat 16 0x1785E9F2BAF9916CA53CCA78840515B2 := by
  decide +kernel

/-- 95_test_vectors.md section 5.1: a second, partial block of one byte. -/
theorem test_gctr_partial_block :
    gctr key (.ofNat 16 0x534D5452000000010000002A00000002) (beBytes 17 0x326A30579094A0BF0E8BC0A55A097DB918) =
      beBytes 17 0x0F8000000001020304050607080910AB00 := by
  decide +kernel

/-! ## Listings (rule R84) -/

/-- A listing with a comment, a key in mixed case with spaces, and a read. -/
theorem test_assemble :
    assemble [] "LDKEY 00010203 04050607\n 08090a0B 0c0D0E0F ; the key\nSPLIT\nTEXP\nREAD STATUS".toList =
      some [.command (.ldkey key.bytes), .command .split, .texp, .read .status] := by
  decide +kernel

/-! ## Witnesses: for every statement with hypotheses, concrete values that meet them all

Where a statement has several clauses, the witness has one part for each, at the boundary values. -/

/-! ### Concrete states in each phase, and that they meet the invariant -/

def idleState : State := { State.reset with key := some key }

theorem idleState_inv : StateInv idleState := by
  constructor <;> simp [idleState, State.reset, State.winValid, State.envValid, State.apduValid]

theorem loadedState_inv (w : FixedBytes 282) : StateInv (loadedState w) := by
  constructor <;> simp [loadedState, State.reset, State.winValid, State.envValid, State.apduValid]

theorem recoverState_inv : StateInv recoverState := by
  constructor <;> simp [recoverState, State.reset, State.winValid, State.envValid, State.apduValid]

theorem envelopeState_inv : StateInv (envelopeState w20) := by
  constructor <;> try simp [envelopeState, loadedState, State.storeEnvelope, State.reset, State.winValid, State.envValid, State.apduValid]
  · decide +kernel
  · decide +kernel

/-- A state in DONE with an APDU that begins 0x0F 0x80, whatever `TAG_LEN` is: `CT_LEN` is `TAG_LEN + 2`. -/
def doneStateOf (t : Config.TagLen) : State :=
  { idleState with
    phase := .done, mbusStart := some ⟨[0x68#8, BitVec.ofNat 8 (22 + t.len), BitVec.ofNat 8 (22 + t.len), 0x68#8], rfl⟩
    frameLen := some (BitVec.ofNat 8 (22 + t.len)), sysTitle := some title, frameCtr := some ctr
    ctLen := some (BitVec.ofNat 8 (2 + t.len)), apdu := some [0x0F#8, 0x80#8], apduLen := some 2#8, getresp := true }

def doneState : State := doneStateOf Config.tagLen

theorem doneState_inv : StateInv doneState := by
  have hb := tagLen_bounds Config.tagLen
  constructor <;>
    simp [doneState, doneStateOf, idleState, State.reset, State.winValid, State.envValid, State.apduValid, getrespOf,
      apduTag0, apduTag1] <;> omega

/-! ### A sealed empty plaintext: a window whose tag is the expected one whatever `TAG_LEN` and `AAD` are -/

/-- The expected tag of the empty ciphertext. -/
def emptyTag : Bytes := expectedTag key (nonceOf title ctr) Config.aad.bytes [] Config.tagLen.len

theorem emptyTag_length : emptyTag.length = Config.tagLen.len := expectedTag_length ..

/-- A window that holds `tag` from offset 26 on, between zero bytes. -/
def windowWithTag (tag : Bytes) : FixedBytes 282 := .ofBytes 282 (List.replicate 26 0#8 ++ tag ++ List.replicate 256 0#8)

theorem windowWithTag_span {tag : Bytes} (n : BitVec 8) (h : n.toNat = tag.length) :
    ((windowWithTag tag).bytes.drop 26).take n.toNat = tag := by
  have hn := n.isLt
  rw [windowWithTag, FixedBytes.ofBytes_bytes (by simp only [List.length_append, List.length_replicate]; omega), List.drop_take, List.append_assoc,
    List.drop_left' (by simp), List.take_take, h, Nat.min_eq_left (by omega), List.take_left]

/-- A state in ENVELOPE with the given tag in its span and nothing else. -/
def tagState (tag : Bytes) : State :=
  { idleState with
    phase := .envelope, win := some (windowWithTag tag), sysTitle := some title, frameCtr := some ctr
    ctLen := some (BitVec.ofNat 8 tag.length) }

theorem tagLen_toNat {tag : Bytes} (h : tag.length = Config.tagLen.len) :
    (BitVec.ofNat 8 tag.length).toNat = tag.length := by
  have := (tagLen_bounds Config.tagLen).2
  simp
  omega

/-- The tag with every bit turned over, which differs from the expected one. -/
def wrongTag : Bytes := emptyTag.map (~~~ ·)

theorem wrongTag_length : wrongTag.length = Config.tagLen.len := by simp [wrongTag, emptyTag_length]

theorem wrongTag_ne : wrongTag ≠ emptyTag := by
  intro h
  have hb := (tagLen_bounds Config.tagLen).1
  have hl := emptyTag_length
  have h0 : wrongTag[0]? = emptyTag[0]? := by rw [h]
  obtain ⟨b, hb0⟩ : ∃ b, emptyTag[0]? = some b := by
    cases he : emptyTag with
    | nil => rw [he] at hl; simp at hl; omega
    | cons b l => exact ⟨b, rfl⟩
  simp only [wrongTag, List.getElem?_map, hb0, Option.map_some, Option.some.injEq] at h0
  have hne : ∀ b : Byte, ~~~b ≠ b := by decide
  exact hne b h0

/-! ### Reset and the agents' steps -/

theorem witness_ResetInputClearsEverything :
    { recoverState with inputs := [.reset] }.inputs = .reset :: [] ∧
      { doneState with inputs := [.reset] }.inputs = .reset :: [] ∧ recoverState.out = doneState.out :=
  ⟨rfl, rfl, rfl⟩

theorem witness_StepRunsDecodedFrame :
    { idleState with inputs := [.frame [0x05#8]] }.inputs = .frame [0x05#8] :: [] ∧ decode [0x05#8] = .ok .clr :=
  ⟨rfl, by decide⟩

theorem witness_TimerStepsOnlyInRecover :
    ({ recoverState with inputs := [.timer] }.inputs = .timer :: [] ∧ recoverState.phase = .recover) ∧
      ({ idleState with inputs := [.timer] }.inputs = .timer :: [] ∧ idleState.phase ≠ .recover) ∧
      (recoverState.inputs = [] ∧ recoverState.phase = .recover) ∧ (idleState.inputs = [] ∧ idleState.phase ≠ .recover) := by
  decide

/-! ### Encoding -/

/-- The clauses at their boundaries: empty; 0x00, 0x06 and 0xFF; opcodes 1, 2, 3 and 5 with lengths that do not fit;
opcodes 1, 2, 3 and 5 with lengths that fit. The inputs are arbitrary. -/
theorem witness_IllegalFramesAreRefused :
    (([] : Bytes) = []) ∧ ((0x00#8 : Byte) = 0x00#8) ∧ (0x06 ≤ (0x06#8).toNat ∧ 0x06 ≤ (0xFF#8).toNat) ∧
      ((List.replicate 15 0#8).length ≠ 16 ∧ (List.replicate 283 0#8).length ≠ 282 ∧ [0#8].length ≠ 0) ∧
      ((List.replicate 16 0#8).length = 16 ∧ (List.replicate 282 0#8).length = 282 ∧ ([] : Bytes).length = 0) ∧
      (1 ≤ (0x01#8).toNat ∧ (0x05#8).toNat ≤ 5) := by
  decide +kernel

/-- As above, with the phases of the last two clauses. -/
theorem witness_DecodeFollowsTheTable :
    ((0x00#8).toNat < 1 ∧ 5 < (0x06#8).toNat) ∧ (1 ≤ (0x01#8).toNat ∧ (0x05#8).toNat ≤ 5 ∧ [0#8].length ≠ 0) ∧
      ((List.replicate 16 0#8).length = 16 ∧ State.reset.phase = .idle) ∧
      ((List.replicate 282 0#8).length = 282 ∧ State.reset.phase ≠ .recover) := by
  decide +kernel

/-- Both sides of the equivalence hold together of a command with an operand and of one without. -/
theorem witness_DecodeEncodeAgree :
    (decode (0x01#8 :: key.bytes) = .ok (.ldkey key.bytes) ∧ (Instr.ldkey key.bytes).wellFormed = true ∧
      encode (.ldkey key.bytes) = 0x01#8 :: key.bytes) ∧
    (decode [0x04#8] = .ok .decrypt ∧ Instr.decrypt.wellFormed = true ∧ encode .decrypt = [0x04#8]) := by
  decide +kernel

theorem witness_HexTextReadsBack : [0x68#8, 0xFA#8][0]? = some 0x68#8 ∧ [0x68#8, 0xFA#8][1]? = some 0xFA#8 := by decide

theorem witness_AssembleReadsRenderedCommand :
    (Instr.ldkey key.bytes).wellFormed = true ∧ Instr.clr.wellFormed = true := by decide +kernel

/-! ### The commands -/

theorem witness_LdkeyLoadsKeyInIdle :
    State.reset.phase = .idle ∧ (loadedState w20).phase ≠ .idle ∧ (List.replicate 15 0#8).length ≠ 16 := by decide

theorem witness_LdwinBeginsCycle :
    State.reset.phase ≠ .recover ∧ recoverState.phase = .recover ∧ (List.replicate 281 0#8).length ≠ 282 := by
  decide +kernel

theorem witness_ClrAbandonsCycle : (loadedState w20).phase ≠ .recover ∧ recoverState.phase = .recover := by decide

/-- A span of a middle length, the shortest and the longest. -/
theorem witness_SplitExtractsEnvelope :
    ((loadedState w20).phase = .loaded ∧ (loadedState w20).win = some w20 ∧ validWindow w20 = true) ∧
      validWindow (window 0x68141468 []) = true ∧ validWindow (window 0x68FFFF68 []) = true := by
  decide +kernel

theorem witness_SplitRaisesFrameInvalid :
    (loadedState (window 0x68FAFB68 [])).phase = .loaded ∧
      (loadedState (window 0x68FAFB68 [])).win = some (window 0x68FAFB68 []) ∧
      validWindow (window 0x68FAFB68 []) = false := by
  decide +kernel

theorem witness_SplitRefusedOutsideLoaded :
    idleState.phase ≠ .loaded ∧ (loadedState w20).phase = .loaded ∧
      exec .split (loadedState w20) = .next ((loadedState w20).accept.storeEnvelope (envelopeOf w20)) := by
  refine ⟨by decide, rfl, ?_⟩
  have h : validWindow w20 = true := by decide +kernel
  simp [exec, execSplit, loadedState, h]

theorem witness_SplitDependsOnWindowOnly :
    idleState.phase ≠ .recover ∧ doneState.phase ≠ .recover ∧
      exec (.ldwin w20.bytes) idleState = .next (idleState.beginCycle w20).accept ∧
      exec (.ldwin w20.bytes) doneState = .next (doneState.beginCycle w20).accept ∧
      exec .split (idleState.beginCycle w20).accept =
        .next ((idleState.beginCycle w20).accept.accept.storeEnvelope (envelopeOf w20)) ∧
      exec .split (doneState.beginCycle w20).accept =
        .next ((doneState.beginCycle w20).accept.accept.storeEnvelope (envelopeOf w20)) := by
  have h : validWindow w20 = true := by decide +kernel
  simp [exec, execLdwin, execSplit, idleState, doneState, doneStateOf, State.reset, h]

theorem witness_DecryptReleasesApdu :
    (tagState emptyTag).phase = .envelope ∧ (tagState emptyTag).key = some key ∧
      (tagState emptyTag).win = some (windowWithTag emptyTag) ∧
      (tagState emptyTag).ctLen = some (BitVec.ofNat 8 emptyTag.length) ∧ (tagState emptyTag).sysTitle = some title ∧
      (tagState emptyTag).frameCtr = some ctr ∧
      (preCounter (nonceOf title ctr)).bytes = title.bytes ++ ctr.bytes ++ [0x00#8, 0x00#8, 0x00#8, 0x01#8] ∧
      ((windowWithTag emptyTag).bytes.drop 26).take (BitVec.ofNat 8 emptyTag.length).toNat = [] ++ emptyTag ∧
      emptyTag.length = Config.tagLen.len ∧
      emptyTag = (((aes key (preCounter (nonceOf title ctr))).xor (ghash (aes key (.zero 16))
        (pad16 Config.aad.bytes ++ pad16 [] ++ beBytes 8 (8 * Config.aad.bytes.length) ++
          beBytes 8 (8 * ([] : Bytes).length)))).bytes).take Config.tagLen.len :=
  ⟨rfl, rfl, rfl, rfl, rfl, rfl, rfl, windowWithTag_span _ (tagLen_toNat emptyTag_length), emptyTag_length, rfl⟩

/-- An empty span, one a byte shorter than a tag, and one that is exactly a tag. -/
theorem witness_DecryptRejectsShortSpan :
    (tagState []).phase = .envelope ∧ (tagState []).key = some key ∧ (tagState []).win = some (windowWithTag []) ∧
      (tagState []).ctLen = some 0#8 ∧ (tagState []).sysTitle = some title ∧ (tagState []).frameCtr = some ctr ∧
      (0#8).toNat < Config.tagLen.len ∧ (BitVec.ofNat 8 (Config.tagLen.len - 1)).toNat < Config.tagLen.len ∧
      (tagState emptyTag).ctLen = some (BitVec.ofNat 8 emptyTag.length) ∧
      Config.tagLen.len ≤ (BitVec.ofNat 8 emptyTag.length).toNat := by
  have h := tagLen_bounds Config.tagLen
  refine ⟨rfl, rfl, rfl, rfl, rfl, rfl, ?_, ?_, rfl, ?_⟩
  · simp
    omega
  · simp
    omega
  · rw [tagLen_toNat emptyTag_length, emptyTag_length]

theorem witness_DecryptRejectsWrongTag :
    (tagState wrongTag).phase = .envelope ∧ (tagState wrongTag).key = some key ∧
      (tagState wrongTag).win = some (windowWithTag wrongTag) ∧
      (tagState wrongTag).ctLen = some (BitVec.ofNat 8 wrongTag.length) ∧ (tagState wrongTag).sysTitle = some title ∧
      (tagState wrongTag).frameCtr = some ctr ∧
      (preCounter (nonceOf title ctr)).bytes = title.bytes ++ ctr.bytes ++ [0x00#8, 0x00#8, 0x00#8, 0x01#8] ∧
      ((windowWithTag wrongTag).bytes.drop 26).take (BitVec.ofNat 8 wrongTag.length).toNat = [] ++ wrongTag ∧
      wrongTag.length = Config.tagLen.len ∧
      wrongTag ≠ (((aes key (preCounter (nonceOf title ctr))).xor (ghash (aes key (.zero 16))
        (pad16 Config.aad.bytes ++ pad16 [] ++ beBytes 8 (8 * Config.aad.bytes.length) ++
          beBytes 8 (8 * ([] : Bytes).length)))).bytes).take Config.tagLen.len :=
  ⟨rfl, rfl, rfl, rfl, rfl, rfl, rfl, windowWithTag_span _ (tagLen_toNat wrongTag_length), wrongTag_length, wrongTag_ne⟩

theorem witness_DecryptRefusals :
    idleState.phase ≠ .envelope ∧ ({ tagState [] with key := none } : State).phase = .envelope ∧
      ({ tagState [] with key := none } : State).key = none := by
  decide

/-! ### The whole machine -/

/-- A state in each phase, a well-formed command with an operand, and an undecodable frame. -/
theorem witness_PhaseTableHolds :
    StateInv idleState ∧ StateInv (loadedState w20) ∧ StateInv (envelopeState w20) ∧ StateInv doneState ∧ StateInv recoverState ∧
      (Instr.ldkey key.bytes).wellFormed = true ∧ Instr.decrypt.wellFormed = true ∧ recoverState.phase = .recover ∧
      idleState.phase ≠ .recover ∧ { idleState with inputs := [.frame []] }.inputs = .frame [] :: [] ∧
      decode [] = .error .unknownOp :=
  ⟨idleState_inv, loadedState_inv w20, envelopeState_inv, doneState_inv, recoverState_inv, by decide +kernel, rfl, rfl,
    by decide, rfl, rfl⟩

theorem witness_StepKeepsInvariant :
    StateInv idleState ∧ step idleState = .next idleState ∧ StateInv recoverState ∧ step recoverState = .next recoverState.endPause :=
  ⟨idleState_inv, rfl, recoverState_inv, rfl⟩

theorem witness_EveryReachableStateMeetsInvariant :
    ∃ t, Host.Core.run core 2 { State.reset with inputs := [.frame [0x05#8], .reset] } = .next t := ⟨_, rfl⟩

theorem witness_BlockNeverStops :
    StateInv recoverState ∧ (∀ rest, recoverState.inputs = .timer :: rest → recoverState.phase = .recover) :=
  ⟨recoverState_inv, fun _ _ => rfl⟩

/-- One frame for each of the five values of `CSTAT`. -/
theorem witness_RefusalsChangeCstatOnly :
    (∃ t, step { idleState with inputs := [.frame [0x05#8]] } = .next t ∧ (t.cstat == .ok) = true) ∧
      (∃ t, step { idleState with inputs := [.frame [0x06#8]] } = .next t ∧ (t.cstat == .unknownOp) = true) ∧
      (∃ t, step { idleState with inputs := [.frame [0x05#8, 0#8]] } = .next t ∧ (t.cstat == .badLength) = true) ∧
      (∃ t, step { idleState with inputs := [.frame [0x03#8]] } = .next t ∧ (t.cstat == .seq) = true) ∧
      (∃ t, step { tagState [] with key := none, inputs := [.frame [0x04#8]] } = .next t ∧ (t.cstat == .nokey) = true) := by
  refine ⟨exists_next ?_, exists_next ?_, exists_next ?_, exists_next ?_, exists_next ?_⟩ <;> decide +kernel

theorem witness_ErrIsSticky :
    StateInv (loadedState (window 0x68FAFB68 [])) ∧
      (∃ t, step { loadedState (window 0x68FAFB68 []) with inputs := [.frame [0x03#8]] } = .next t ∧
        (t.err == .frameInvalid) = true) ∧
      (loadedState (window 0x68FAFB68 [])).err = .none :=
  ⟨loadedState_inv _, exists_next (by decide +kernel), rfl⟩

/-- The step that releases the empty APDU. -/
theorem step_tagState :
    step { tagState emptyTag with inputs := [.frame [0x04#8]] } = .next ((tagState emptyTag).accept.releaseApdu []) := by
  have hl := tagLen_toNat emptyTag_length
  have hs : spanOf (windowWithTag emptyTag) (BitVec.ofNat 8 emptyTag.length) = emptyTag :=
    windowWithTag_span _ hl
  rw [emptyTag_length] at hs
  have ht : expectedTag key (nonceOf title ctr) Config.aad.bytes [] Config.tagLen.len = emptyTag := rfl
  have hd : decode [0x04#8] = .ok .decrypt := by decide
  rw [step_frame (rest := []) rfl]
  simp [frameStep, hd, exec, execDecrypt, decryptWith, tagState, idleState, decryptCycle, authDecrypt, hs, emptyTag_length,
    ht, gcmStream, gctr, gctrBlocks, State.accept, State.releaseApdu, State.reset]

theorem witness_ApduOnlyAfterTagCheck :
    step { tagState emptyTag with inputs := [.frame [0x04#8]] } = .next ((tagState emptyTag).accept.releaseApdu []) ∧
      ((tagState emptyTag).accept.releaseApdu []).apdu = some [] ∧ (tagState emptyTag).apdu ≠ some [] :=
  ⟨step_tagState, rfl, by simp [tagState, idleState, State.reset]⟩

theorem witness_RecoverRefusesEveryFrame :
    recoverState.phase = .recover ∧ { recoverState with inputs := [.frame [0x05#8]] }.inputs = .frame [0x05#8] :: [] :=
  ⟨rfl, rfl⟩

theorem witness_ResyncOnlyAtPauseEnd : step recoverState = .next recoverState.endPause := rfl

theorem witness_RecoveryPauseEnds : recoverState.phase = .recover := rfl

theorem witness_KeyChangesOnlyInIdleOrReset :
    (∃ t, step { State.reset with inputs := [.frame (0x01#8 :: key.bytes)] } = .next t ∧ (t.key == some key) = true) ∧
      State.reset.key ≠ some key :=
  ⟨exists_next (by decide +kernel), by decide⟩

/-- Two keys, in a state that is about to run `CLR` and in one in which `DECRYPT` is refused. -/
theorem witness_KeyBytesInfluenceOnlyDecrypt :
    SameButKeyBytes idleState { idleState with key := some (.zero 16) } ∧
      (∀ f rest, { idleState with inputs := [.frame [0x04#8]] }.inputs = .frame f :: rest → decode f = .ok .decrypt →
        { idleState with inputs := [.frame [0x04#8]] }.phase ≠ .envelope) :=
  ⟨⟨rfl, rfl⟩, fun _ _ _ _ => by decide⟩

/-- W20 with offsets 5, 20, 54, 100 and 281 changed, as in vector V31. -/
def w20Changed : FixedBytes 282 :=
  .ofBytes 282 (((((w20.bytes.set 5 0xDD#8).set 20 0x77#8).set 54 0x33#8).set 100 0x33#8).set 281 0x33#8)

theorem witness_UnexaminedBytesInfluenceNothing : SameExamined w20 w20Changed ∧ w20 ≠ w20Changed := by
  unfold SameExamined
  decide +kernel

/-- Two states in ENVELOPE that hold W20 and its changed form and are about to decrypt, and two in IDLE about to load
them. -/
theorem witness_StepKeepsUnexaminedUnseen :
    (StateInv { envelopeState w20 with inputs := [.frame [0x04#8]] } ∧
      SameButUnexamined { envelopeState w20 with inputs := [.frame [0x04#8]] }
        { envelopeState w20 with win := some w20Changed, inputs := [.frame [0x04#8]] }) ∧
    (StateInv { idleState with inputs := cycleInputs w20 } ∧
      SameButUnexamined { idleState with inputs := cycleInputs w20 }
        { idleState with inputs := cycleInputs w20Changed }) := by
  have hw := witness_UnexaminedBytesInfluenceNothing.1
  refine ⟨⟨?_, rfl, .some hw, .cons (.inl rfl) .nil⟩, ⟨?_, rfl, .none, ?_⟩⟩
  · exact { envelopeState_inv with }
  · exact { idleState_inv with }
  · exact .cons (.inr ⟨w20, w20Changed, hw, rfl, rfl⟩) (.cons (.inl rfl) (.cons (.inl rfl) .nil))

theorem witness_LdwinForgetsPreviousCycle :
    (envelopeState w20).phase ≠ .recover ∧ doneState.phase ≠ .recover ∧ (envelopeState w20).key = doneState.key ∧
      (envelopeState w20).out = doneState.out ∧ (envelopeState w20).inputs = doneState.inputs :=
  ⟨by decide, by simp [doneState, doneStateOf], rfl, rfl, rfl⟩

/-- The empty plaintext, sealed. -/
def sealedWindow : FixedBytes 282 :=
  ⟨windowBytes (BitVec.ofNat 8 (20 + Config.tagLen.len)) (.zero 7) title (.zero 3) ctr (sealedSpan key title ctr [])
    (List.replicate (256 - Config.tagLen.len) 0#8), by
      have h := (tagLen_bounds Config.tagLen).2
      have he : (sealedSpan key title ctr []).length = Config.tagLen.len := emptyTag_length
      have h3 : (FixedBytes.zero 3).bytes.length = 3 := FixedBytes.size _
      have h7 : (FixedBytes.zero 7).bytes.length = 7 := FixedBytes.size _
      simp only [windowBytes, List.length_append, List.length_cons, List.length_nil, List.length_replicate, he,
        title.size, ctr.size, h3, h7]
      omega⟩

theorem witness_SealedPlaintextDecrypts :
    idleState.phase ≠ .recover ∧ idleState.key = some key ∧
      { idleState with inputs := cycleInputs sealedWindow ++ [] }.inputs = cycleInputs sealedWindow ++ [] ∧
      (BitVec.ofNat 8 (20 + Config.tagLen.len)).toNat = 20 + ([] : Bytes).length + Config.tagLen.len ∧
      sealedWindow.bytes = windowBytes (BitVec.ofNat 8 (20 + Config.tagLen.len)) (.zero 7) title (.zero 3) ctr
        (sealedSpan key title ctr []) (List.replicate (256 - Config.tagLen.len) 0#8) := by
  have h := (tagLen_bounds Config.tagLen).2
  refine ⟨by decide, rfl, rfl, ?_, rfl⟩
  simp
  omega

/-! ### The view and the cipher -/

/-- A state whose envelope and APDU are in the view, and two that differ in the window and the key's bytes. -/
theorem witness_HostViewGates :
    StateInv doneState ∧ doneState.envValid = true ∧ doneState.apduValid = true ∧
      { loadedState w20 with key := some (.zero 16), win := some w20Changed } =
        { loadedState w20 with key := some (.zero 16), win := some w20Changed } ∧
      (loadedState w20).key.isSome = true :=
  ⟨doneState_inv, rfl, rfl, rfl, rfl⟩

/-- An APDU with `GETRESP` = 1, and a state without an APDU. -/
theorem witness_GetrespMeaning : StateInv doneState ∧ doneState.getresp = true ∧ doneState.apduValid = true ∧ StateInv idleState :=
  ⟨doneState_inv, rfl, rfl, idleState_inv⟩

theorem witness_SboxIsAffineOfInverse : (0x53#8 : Byte) ≠ 0#8 ∧ sbox 0x53#8 = sbox 0x53#8 := ⟨by decide, rfl⟩

theorem witness_RoundTransformationsByCell : (0 < 4 ∧ 0 < 4) ∧ (3 < 4 ∧ 3 < 4) := by decide

/-- The first and last word of each kind, and the core of a word `t` written from a word `prev`. -/
theorem witness_KeyScheduleRecurrence :
    3 < 4 ∧ (4 ≤ 4 ∧ 4 % 4 = 0) ∧ (4 ≤ 43 ∧ 43 < 44 ∧ 43 % 4 ≠ 0) ∧ (3 < 4 ∧ 10 < 11) ∧
      ∀ prev : FixedBytes 4, ∃ t : FixedBytes 4,
        t.bytes = [sbox (prev.get 1) ^^^ (xtime^[0]) 0x01#8, sbox (prev.get 2), sbox (prev.get 3), sbox (prev.get 0)] :=
  ⟨by decide, by decide, by decide, by decide, fun _ => ⟨⟨_, rfl⟩, rfl⟩⟩

theorem witness_GhashInputForm : ([] : Bytes).length < 2 ^ 61 ∧ (List.replicate 231 0#8).length ≤ 231 := by
  decide +kernel

theorem witness_GhashRecurrence : key.bytes.length % 16 = 0 ∧ ([] : Bytes).length % 16 = 0 := by decide

end Sys2Proof.Tests
end

/-! # The state: what each step can do, and the invariant it keeps

Proofs of the statements about the state (10_state.md): the invariant of rules R25 to R27 and R34, the phase table,
the error class, the APDU, the output trace, reset, the host view and the key's bytes. -/

namespace Sys2Proof.Machine

/-! ## The phase table, one equation a command (rule R22) -/

theorem phaseTable_ldkey (p : Phase) (data : Bytes) (good hasKey : Bool) :
    phaseTable p (.ldkey data) good hasKey = if p = .idle then some .idle else none := by
  cases p <;> rfl

theorem phaseTable_ldwin (p : Phase) (data : Bytes) (good hasKey : Bool) :
    phaseTable p (.ldwin data) good hasKey = if p = .recover then none else some .loaded := by
  cases p <;> rfl

theorem phaseTable_split (p : Phase) (good hasKey : Bool) :
    phaseTable p .split good hasKey = if p = .loaded then some (if good then .envelope else .recover) else none := by
  cases p <;> rfl

theorem phaseTable_decrypt (p : Phase) (good hasKey : Bool) :
    phaseTable p .decrypt good hasKey =
      if p = .envelope then some (if hasKey then (if good then .done else .idle) else .envelope) else none := by
  cases p <;> rfl

theorem phaseTable_clr (p : Phase) (good hasKey : Bool) :
    phaseTable p .clr good hasKey = if p = .recover then none else some .idle := by
  cases p <;> rfl

/-! ## Everything a command and a step can do -/

/-- When a command is refused with each cause (rules R212, R213). A frame that decodes to a command is refused with
neither UNKNOWN_OP nor, being well formed, BAD_LENGTH; SEQ is the table's "refused". -/
def RefusedWith (s : State) (i : Instr) : RefuseCause → Prop
  | .unknownOp => False
  | .badLength => i.wellFormed = false
  | .seq => ∀ good hasKey, phaseTable s.phase i good hasKey = none
  | .nokey => i = .decrypt ∧ s.phase = .envelope ∧ s.key = none

/-- What a command that ends in a next state has done, with the guards under which it does it. -/
inductive ExecEffect (s : State) : Instr → State → Prop where
  | refused (i : Instr) (c : RefuseCause) (hc : RefusedWith s i c) : ExecEffect s i (s.refuse c)
  | keyLoaded (k : FixedBytes Config.keyLen) (hp : s.phase = .idle) :
      ExecEffect s (.ldkey k.bytes) (s.storeKey k).accept
  | windowLoaded (w : FixedBytes Config.windowLen) (hp : s.phase ≠ .recover) :
      ExecEffect s (.ldwin w.bytes) (s.beginCycle w).accept
  | envelopeStored (w : FixedBytes Config.windowLen) (hp : s.phase = .loaded) (hw : s.win = some w)
      (hv : validWindow w = true) : ExecEffect s .split (s.accept.storeEnvelope (envelopeOf w))
  | frameInvalid (w : FixedBytes Config.windowLen) (hp : s.phase = .loaded) (hw : s.win = some w)
      (hv : validWindow w = false) : ExecEffect s .split (s.accept.raise .frameInvalid)
  | decryptFailed (cause : DecryptCause) (hp : s.phase = .envelope) :
      ExecEffect s .decrypt (s.accept.raise (.decryptError cause))
  | apduReleased (k : FixedBytes Config.keyLen) (w : FixedBytes Config.windowLen) (n : BitVec 8)
      (title : FixedBytes Config.titleLen) (ctr : FixedBytes Config.ctrLen) (c tag : Bytes)
      (hp : s.phase = .envelope) (hk : s.key = some k) (hw : s.win = some w) (hn : s.ctLen = some n)
      (ht : s.sysTitle = some title) (hc : s.frameCtr = some ctr) (hspan : spanOf w n = c ++ tag)
      (hlen : tag.length = Config.tagLen.len)
      (htag : expectedTag k (nonceOf title ctr) Config.aad.bytes c Config.tagLen.len = tag) :
      ExecEffect s .decrypt (s.accept.releaseApdu (gcmStream k (nonceOf title ctr) c))
  | cleared (hp : s.phase ≠ .recover) : ExecEffect s .clr s.abandonCycle.accept

theorem execDecrypt_effect {s t : State} (h : execDecrypt s = .next t) : ExecEffect s .decrypt t := by
  obtain ⟨hp, rfl⟩ | ⟨hp, hk, rfl⟩ | ⟨k, w, n, title, ctr, hp, hk, hw, hn, ht, hc, rfl⟩ := decryptWith_cases h
  · exact .refused _ .seq fun _ _ => by simp [phaseTable_decrypt, hp]
  · exact .refused _ .nokey ⟨rfl, hp, hk⟩
  · obtain ⟨-, he⟩ | ⟨-, -, he⟩ | ⟨hlen, htag, he⟩ :=
      decryptCycle_cases Config.tagLen Config.aad k title ctr (spanOf w n) s <;> rw [he]
    · exact .decryptFailed .len hp
    · exact .decryptFailed .tag hp
    · exact .apduReleased k w n title ctr _ _ hp hk hw hn ht hc (List.take_append_drop ..).symm
        (by rw [List.length_drop]; omega) htag

/-- Everything a command can do. -/
theorem exec_effect {i : Instr} {s t : State} (h : exec i s = .next t) : ExecEffect s i t := by
  cases i with
  | ldkey data =>
    obtain ⟨hl, rfl⟩ | ⟨k, rfl, ⟨hp, rfl⟩ | ⟨hp, rfl⟩⟩ := execLdkey_cases h
    · exact .refused _ .badLength (by simp [RefusedWith, Instr.wellFormed, hl])
    · exact .keyLoaded k hp
    · exact .refused _ .seq fun _ _ => by simp [phaseTable_ldkey, hp]
  | ldwin data =>
    obtain ⟨hl, rfl⟩ | ⟨w, rfl, ⟨hp, rfl⟩ | ⟨hp, rfl⟩⟩ := execLdwin_cases h
    · exact .refused _ .badLength (by simp [RefusedWith, Instr.wellFormed, hl])
    · exact .windowLoaded w hp
    · exact .refused _ .seq fun _ _ => by simp [phaseTable_ldwin, hp]
  | split =>
    obtain ⟨hp, rfl⟩ | ⟨w, hp, hw, ⟨hv, rfl⟩ | ⟨hv, rfl⟩⟩ := execSplit_cases h
    · exact .refused _ .seq fun _ _ => by simp [phaseTable_split, hp]
    · exact .envelopeStored w hp hw hv
    · exact .frameInvalid w hp hw hv
  | decrypt => exact execDecrypt_effect h
  | clr =>
    obtain ⟨hp, rfl⟩ | ⟨hp, rfl⟩ := execClr_cases h
    · exact .cleared hp
    · exact .refused _ .seq fun _ _ => by simp [phaseTable_clr, hp]

/-- What a step that ends in a next state has done: one constructor for each agent's step. -/
inductive StepEffect (s : State) : State → Prop where
  | waits (hi : s.inputs = []) (hp : s.phase ≠ .recover) : StepEffect s s
  | quietPauseEnds (hi : s.inputs = []) (hp : s.phase = .recover) : StepEffect s s.endPause
  | timer (rest : List Input) (hi : s.inputs = .timer :: rest) (hp : s.phase = .recover) :
      StepEffect s { s with inputs := rest }.endPause
  | reset (rest : List Input) (hi : s.inputs = .reset :: rest) : StepEffect s { s with inputs := rest }.applyReset
  | badFrame (f : Bytes) (rest : List Input) (e : DecodeError) (hi : s.inputs = .frame f :: rest)
      (hd : decode f = .error e) : StepEffect s ({ s with inputs := rest }.refuse (decodeRefusal e))
  | command (f : Bytes) (rest : List Input) (i : Instr) (t : State) (hi : s.inputs = .frame f :: rest)
      (hd : decode f = .ok i) (he : ExecEffect { s with inputs := rest } i t) : StepEffect s t

theorem step_effect {s t : State} (h : step s = .next t) : StepEffect s t := by
  obtain ⟨hi, hp, rfl⟩ | ⟨hi, hp, rfl⟩ | ⟨rest, hi, hp, rfl⟩ | ⟨rest, hi, rfl⟩ | ⟨f, rest, hi, hf⟩ := step_cases h
  · exact .quietPauseEnds hi hp
  · exact .waits hi hp
  · exact .timer rest hi hp
  · exact .reset rest hi
  · obtain ⟨i, hd, hx⟩ | ⟨e, hd, rfl⟩ := frameStep_cases hf
    · exact .command f rest i t hi hd (exec_effect hx)
    · exact .badFrame f rest e hi hd

/-! ## Lengths: the wrapper of a valid window, and the plaintext of a span -/

/-- Rules R121, R122: the wrapper of a valid window is the start byte, twice the declared length, the start byte. -/
theorem envelopeOf_mbusStart_of_valid {w : FixedBytes Config.windowLen} (h : validWindow w = true) :
    (envelopeOf w).mbusStart.bytes = [0x68#8, (envelopeOf w).frameLen, (envelopeOf w).frameLen, 0x68#8] := by
  obtain ⟨bytes, size⟩ := w
  match bytes, size with
  | b0 :: b1 :: b2 :: b3 :: rest, _ =>
    obtain ⟨⟨h0, h12⟩, h3⟩ : (b0 = 0x68#8 ∧ b1 = b2) ∧ b3 = 0x68#8 := by
      simpa [validWindow, windowByte, FixedBytes.get, startByte] using h
    subst h0 h12 h3
    rfl

theorem gctrBlocks_length (k : Block) (n : Nat) (cb : Block) (x : Bytes) (h : x.length ≤ 16 * n) :
    (gctrBlocks k n cb x).length = x.length := by
  induction n generalizing cb x with
  | zero => simp [gctrBlocks]; omega
  | succ n ih =>
    have hb := (aes k cb).size
    simp [gctrBlocks, xorLeading, hb, ih (inc32 cb) (x.drop 16) (by simp; omega)]
    omega

/-- Rule R191: counter mode keeps the length. -/
@[simp] theorem gctr_length (k icb : Block) (x : Bytes) : (gctr k icb x).length = x.length :=
  gctrBlocks_length k _ icb x (by omega)

@[simp] theorem gcmStream_length (k : Block) (nonce : FixedBytes Config.nonceLen) (c : Bytes) :
    (gcmStream k nonce c).length = c.length := gctr_length ..

/-! ## What the invariant says of each phase -/

theorem StateInv.win_eq_none {s : State} (h : StateInv s) (hl : s.phase ≠ .loaded) (he : s.phase ≠ .envelope) :
    s.win = none := by
  simpa [State.winValid, hl, he] using h.win_valid

theorem StateInv.exists_win {s : State} (h : StateInv s) (hp : s.phase = .loaded ∨ s.phase = .envelope) :
    ∃ w, s.win = some w := by
  rw [← Option.isSome_iff_exists, h.win_valid]
  simpa [State.winValid] using hp

theorem StateInv.envelope_eq_none {s : State} (h : StateInv s) (he : s.envValid = false) :
    s.mbusStart = none ∧ s.frameLen = none ∧ s.sysTitle = none ∧ s.frameCtr = none ∧ s.ctLen = none := by
  simpa [he] using And.intro h.mbusStart_valid (And.intro h.frameLen_valid
    (And.intro h.sysTitle_valid (And.intro h.frameCtr_valid h.ctLen_valid)))

theorem StateInv.apdu_eq_none {s : State} (h : StateInv s) (hp : s.phase ≠ .done) :
    s.apdu = none ∧ s.apduLen = none ∧ s.getresp = false := by
  have ha : s.apdu = none := by simpa [State.apduValid, hp] using h.apdu_valid
  exact ⟨ha, by simpa [State.apduValid, hp] using h.apduLen_valid, by simp [h.getresp_means, ha]⟩

/-- In IDLE and RECOVER no cycle is open: there is nothing to discard. -/
theorem StateInv.endCycle_eq_self {s : State} (h : StateInv s) (hp : s.phase = .idle ∨ s.phase = .recover) :
    s.endCycle = s := by
  obtain ⟨hl, he, hd⟩ : s.phase ≠ .loaded ∧ s.phase ≠ .envelope ∧ s.phase ≠ .done := by
    obtain hp | hp := hp <;> simp [hp]
  have hw := h.win_eq_none hl he
  obtain ⟨hm, hfl, ht, hc, hn⟩ := h.envelope_eq_none (by simp [State.envValid, he, hd])
  obtain ⟨ha, hal, hg⟩ := h.apdu_eq_none hd
  cases s
  simp_all [State.endCycle]

/-- Rule R25: a stored `CT_LEN` is at most 235. -/
theorem StateInv.ctLen_le {s : State} {n : BitVec 8} (h : StateInv s) (hn : s.ctLen = some n) : n.toNat ≤ 235 := by
  have hv : s.envValid = true := by rw [← h.ctLen_valid, hn]; rfl
  obtain ⟨m, hm⟩ := Option.isSome_iff_exists.1 (h.mbusStart_valid.trans hv)
  obtain ⟨l, hl⟩ := Option.isSome_iff_exists.1 (h.frameLen_valid.trans hv)
  have := (h.envelope_good m l n hm hl hn).2
  have := l.isLt
  omega

/-! ## The invariant under each operation on the state -/

/-- The invariant reads neither the key, nor `CSTAT`, nor `OUT`, nor the pending inputs. -/
theorem StateInv.congr {s : State} (h : StateInv s) (key : Option (FixedBytes Config.keyLen)) (cstat : CStat)
    (out : List OutEvent) (inputs : List Input) :
    StateInv { s with key := key, cstat := cstat, out := out, inputs := inputs } := { h with }

theorem StateInv.withInputs {s : State} (h : StateInv s) (rest : List Input) : StateInv { s with inputs := rest } :=
  h.congr _ _ _ rest

theorem StateInv.refuse {s : State} (h : StateInv s) (c : RefuseCause) : StateInv (s.refuse c) := h.congr ..

theorem StateInv.accept {s : State} (h : StateInv s) : StateInv s.accept := h.congr ..

theorem StateInv.storeKey {s : State} (h : StateInv s) (k : FixedBytes Config.keyLen) : StateInv (s.storeKey k) :=
  h.congr ..

/-- A discarded cycle meets the invariant wherever the phase and the error agree that none is open. -/
theorem stateInv_endCycle {s : State} (h : s.phase = .idle ∨ s.phase = .recover ∧ s.err = .frameInvalid) :
    StateInv s.endCycle := by
  obtain hp | ⟨hp, he⟩ := h
  · constructor <;> simp [State.winValid, State.envValid, State.apduValid, hp]
  · constructor <;> simp [State.winValid, State.envValid, State.apduValid, hp, he]

theorem stateInv_applyReset (s : State) : StateInv s.applyReset := stateInv_endCycle (s := s.applyReset) (.inl rfl)

theorem stateInv_abandonCycle (s : State) : StateInv s.abandonCycle :=
  stateInv_endCycle (s := { s with err := .none, phase := .idle }) (.inl rfl)

theorem stateInv_raise (s : State) (e : CycleError) : StateInv (s.raise e) := by
  apply stateInv_endCycle (s := { s with err := e.errClass, phase := e.nextPhase })
  cases e with
  | frameInvalid => exact .inr ⟨rfl, rfl⟩
  | decryptError cause => exact .inl rfl

theorem StateInv.endPause {s : State} (h : StateInv s) (hp : s.phase = .recover) : StateInv s.endPause := by
  rw [← h.endCycle_eq_self (.inr hp)]
  exact stateInv_endCycle (s := s.endPause) (.inl rfl)

theorem stateInv_beginCycle (s : State) (w : FixedBytes Config.windowLen) : StateInv (s.beginCycle w) := by
  constructor <;> simp [State.winValid, State.envValid, State.apduValid]

theorem StateInv.storeEnvelope {s : State} {w : FixedBytes Config.windowLen} (h : StateInv s) (hp : s.phase = .loaded)
    (hw : s.win = some w) (hv : validWindow w = true) : StateInv (s.storeEnvelope (envelopeOf w)) := by
  obtain ⟨ha, hal, hg⟩ := h.apdu_eq_none (by simp [hp])
  have he := h.active_err (.inl hp)
  constructor
  case envelope_good =>
    rintro m l n ⟨⟩ ⟨⟩ ⟨⟩
    exact ⟨envelopeOf_mbusStart_of_valid hv, envelopeOf_ctLen_toNat w⟩
  case envelope_of_window =>
    rintro w' - hw'
    obtain rfl : w = w' := Option.some.inj (hw.symm.trans hw')
    exact ⟨hv, rfl, rfl, rfl, rfl, rfl⟩
  all_goals simp [State.winValid, State.envValid, State.apduValid, hw, ha, hal, hg, he]

theorem StateInv.releaseApdu {s : State} {n : BitVec 8} {p : Bytes} (h : StateInv s) (hp : s.phase = .envelope)
    (hn : s.ctLen = some n) (hlen : p.length + Config.tagLen.len = n.toNat) : StateInv (s.releaseApdu p) := by
  have hle := h.ctLen_le hn
  have he := h.active_err (.inr (.inl hp))
  constructor
  case envelope_good => exact h.envelope_good
  case apdu_length =>
    rintro p' k n' ⟨⟩ ⟨⟩ hn'
    obtain rfl : n = n' := Option.some.inj (hn.symm.trans hn')
    simp
    omega
  all_goals simp [State.winValid, State.envValid, State.apduValid, hp, he, h.mbusStart_valid, h.frameLen_valid,
    h.sysTitle_valid, h.frameCtr_valid, h.ctLen_valid]

/-! ## The invariant under every step -/

theorem StateInv.of_execEffect {s t : State} {i : Instr} (h : StateInv s) (he : ExecEffect s i t) : StateInv t := by
  cases he with
  | refused _ c _ => exact h.refuse c
  | keyLoaded k _ => exact (h.storeKey k).accept
  | windowLoaded w _ => exact (stateInv_beginCycle s w).accept
  | envelopeStored w hp hw hv => exact h.accept.storeEnvelope hp hw hv
  | frameInvalid _ _ _ _ => exact stateInv_raise ..
  | decryptFailed _ _ => exact stateInv_raise ..
  | apduReleased k w n title ctr c tag hp hk hw hn ht hc hspan hlen htag =>
    have hsum : c.length + tag.length = n.toNat := by rw [← List.length_append, ← hspan, spanOf_length]
    exact h.accept.releaseApdu hp hn (by rw [gcmStream_length, ← hlen, hsum])
  | cleared _ => exact (stateInv_abandonCycle s).accept

theorem StateInv.of_stepEffect {s t : State} (h : StateInv s) (he : StepEffect s t) : StateInv t := by
  cases he with
  | waits _ _ => exact h
  | quietPauseEnds _ hp => exact h.endPause hp
  | timer rest _ hp => exact (h.withInputs rest).endPause hp
  | reset rest _ => exact stateInv_applyReset _
  | badFrame f rest e _ _ => exact (h.withInputs rest).refuse _
  | command f rest i _ _ _ hx => exact (h.withInputs rest).of_execEffect hx

/-- Settles O26: every case of what a step can do keeps the invariant. -/
theorem stepKeepsInvariant : Obligations.StepKeepsInvariant :=
  fun _ _ h hs => h.of_stepEffect (step_effect hs)

/-- A run of one step and more is the step, then the rest of the run. -/
theorem run_succ_eq_next {k : Nat} {s t : State} (h : Host.Core.run core (k + 1) s = .next t) :
    ∃ u, step s = .next u ∧ Host.Core.run core k u = .next t := by
  simp only [Host.Core.run] at h
  split at h
  · exact ⟨_, ‹_›, h⟩
  · cases h
  · cases h

/-- What every step keeps, every run keeps. -/
theorem run_keeps {P : State → Prop} (hstep : ∀ s t, P s → step s = .next t → P t) {k : Nat} {s t : State} (h : P s)
    (hr : Host.Core.run core k s = .next t) : P t := by
  induction k generalizing s with
  | zero =>
    cases hr
    exact h
  | succ k ih =>
    obtain ⟨u, hs, hr⟩ := run_succ_eq_next hr
    exact ih (hstep s u h hs) hr

theorem stateInv_reset : StateInv State.reset := stateInv_applyReset State.reset

/-- Settles O27: the invariant holds at reset, whatever the inputs, and every step keeps it. -/
theorem everyReachableStateMeetsInvariant : Obligations.EveryReachableStateMeetsInvariant :=
  fun inputs _ _ hr => run_keeps stepKeepsInvariant (stateInv_reset.withInputs inputs) hr

/-! ## What the statements about single steps say of each case -/

/-- No command emits an event. -/
theorem ExecEffect.out_eq {s t : State} {i : Instr} (he : ExecEffect s i t) : t.out = s.out := by
  cases he <;> rfl

/-- Settles O33: of all that a step can do, only the end of the pause touches `OUT`. -/
theorem resyncOnlyAtPauseEnd : Obligations.ResyncOnlyAtPauseEnd := by
  intro s t h
  cases step_effect h with
  | waits _ _ => exact .inl rfl
  | quietPauseEnds hi hp => exact .inr ⟨rfl, hp, rfl, .inl hi⟩
  | timer rest hi hp => exact .inr ⟨rfl, hp, rfl, .inr ⟨rest, hi⟩⟩
  | reset rest _ => exact .inl rfl
  | badFrame f rest e _ _ => exact .inl rfl
  | command f rest i _ _ _ he => exact .inl he.out_eq

/-- Settles O31: the only command that writes an APDU is the `DECRYPT` whose tag verified. -/
theorem apduOnlyAfterTagCheck : Obligations.ApduOnlyAfterTagCheck := by
  intro s t p h hp hold
  cases step_effect h with
  | waits _ _ => exact absurd hp hold
  | quietPauseEnds _ _ => exact absurd hp hold
  | timer _ _ _ => exact absurd hp hold
  | reset _ _ => cases hp
  | badFrame _ _ _ _ _ => exact absurd hp hold
  | command f rest i _ hi hd he =>
    cases he with
    | refused _ _ _ => exact absurd hp hold
    | keyLoaded _ _ => exact absurd hp hold
    | windowLoaded _ _ => cases hp
    | envelopeStored _ _ _ _ => exact absurd hp hold
    | frameInvalid _ _ _ _ => cases hp
    | decryptFailed _ _ => cases hp
    | cleared _ => cases hp
    | apduReleased k w n title ctr c tag he hk hw hn ht hc hspan hlen htag =>
      obtain rfl : gcmStream k (nonceOf title ctr) c = p := Option.some.inj hp
      exact ⟨f, rest, k, w, n, title, ctr, c, tag, hi, hd, he, rfl, hk, hw, hn, ht, hc, hspan, hlen, htag, rfl⟩

/-- The error class of an authenticated decryption that failed. -/
theorem errClass_decryptError (cause : DecryptCause) :
    (CycleError.decryptError cause).errClass = .decryptLen ∨
      (CycleError.decryptError cause).errClass = .decryptTag := by
  cases cause with
  | len => exact .inl rfl
  | tag => exact .inr rfl

/-- How a command that changes `ERR` does it (rule R31): the two that clear it, and the two that set it from NONE. -/
theorem ExecEffect.err_change {s t : State} {i : Instr} (he : ExecEffect s i t) (h : StateInv s) (hne : t.err ≠ s.err) :
    t.cstat = .ok ∧
      (((∃ data, i = .ldwin data) ∨ i = .clr) ∧ t.err = .none ∨
        s.err = .none ∧ (i = .split ∧ t.err = .frameInvalid ∨
          i = .decrypt ∧ (t.err = .decryptLen ∨ t.err = .decryptTag))) := by
  cases he with
  | refused _ _ _ => exact absurd rfl hne
  | keyLoaded _ _ => exact absurd rfl hne
  | windowLoaded w _ => exact ⟨rfl, .inl ⟨.inl ⟨w.bytes, rfl⟩, rfl⟩⟩
  | envelopeStored _ _ _ _ => exact absurd rfl hne
  | frameInvalid _ hp _ _ => exact ⟨rfl, .inr ⟨h.active_err (.inl hp), .inl ⟨rfl, rfl⟩⟩⟩
  | decryptFailed cause hp =>
    exact ⟨rfl, .inr ⟨h.active_err (.inr (.inl hp)), .inr ⟨rfl, errClass_decryptError cause⟩⟩⟩
  | apduReleased => exact absurd rfl hne
  | cleared _ => exact ⟨rfl, .inl ⟨.inr rfl, rfl⟩⟩

/-- Settles O30: the reset and four commands change `ERR`; every other step leaves it. -/
theorem errIsSticky : Obligations.ErrIsSticky := by
  refine ⟨⟨rfl, rfl, rfl, rfl⟩, fun s t h hs hne => ?_⟩
  cases step_effect hs with
  | waits _ _ => exact absurd rfl hne
  | quietPauseEnds _ _ => exact absurd rfl hne
  | timer _ _ _ => exact absurd rfl hne
  | reset rest hi => exact .inl ⟨rest, hi, rfl⟩
  | badFrame _ _ _ _ _ => exact absurd rfl hne
  | command f rest i _ hi hd he =>
    exact .inr ⟨f, rest, i, hi, hd, he.err_change (h.withInputs rest) hne⟩

/-! ## The commands, one equation a case -/

theorem exec_ldkey_of_idle {s : State} (k : FixedBytes Config.keyLen) (hp : s.phase = .idle) :
    exec (.ldkey k.bytes) s = .next (s.storeKey k).accept := by
  simp [exec, execLdkey, hp]

theorem exec_ldkey_of_ne_idle {s : State} (k : FixedBytes Config.keyLen) (hp : s.phase ≠ .idle) :
    exec (.ldkey k.bytes) s = .next (s.refuse .seq) := by
  simp [exec, execLdkey, hp]

theorem exec_ldwin_of_ne_recover {s : State} (w : FixedBytes Config.windowLen) (hp : s.phase ≠ .recover) :
    exec (.ldwin w.bytes) s = .next (s.beginCycle w).accept := by
  simp [exec, execLdwin, hp]

theorem exec_ldwin_of_recover {s : State} (w : FixedBytes Config.windowLen) (hp : s.phase = .recover) :
    exec (.ldwin w.bytes) s = .next (s.refuse .seq) := by
  simp [exec, execLdwin, hp]

theorem exec_clr_of_ne_recover {s : State} (hp : s.phase ≠ .recover) :
    exec .clr s = .next s.abandonCycle.accept := by
  simp [exec, execClr, hp]

theorem exec_clr_of_recover {s : State} (hp : s.phase = .recover) : exec .clr s = .next (s.refuse .seq) := by
  simp [exec, execClr, hp]

theorem exec_split_of_ne_loaded {s : State} (hp : s.phase ≠ .loaded) : exec .split s = .next (s.refuse .seq) := by
  simp [exec, execSplit, hp]

theorem exec_split_of_valid {s : State} {w : FixedBytes Config.windowLen} (hp : s.phase = .loaded)
    (hw : s.win = some w) (hv : validWindow w = true) :
    exec .split s = .next (s.accept.storeEnvelope (envelopeOf w)) := by
  simp [exec, execSplit, hp, hw, hv]

theorem exec_split_of_invalid {s : State} {w : FixedBytes Config.windowLen} (hp : s.phase = .loaded)
    (hw : s.win = some w) (hv : validWindow w = false) :
    exec .split s = .next (s.accept.raise .frameInvalid) := by
  simp [exec, execSplit, hp, hw, hv]

theorem exec_decrypt_of_ne_envelope {s : State} (hp : s.phase ≠ .envelope) :
    exec .decrypt s = .next (s.refuse .seq) := by
  simp [exec, execDecrypt, decryptWith, hp]

theorem exec_decrypt_of_no_key {s : State} (hp : s.phase = .envelope) (hk : s.key = none) :
    exec .decrypt s = .next (s.refuse .nokey) := by
  simp [exec, execDecrypt, decryptWith, hp, hk]

theorem exec_decrypt_of_key {s : State} {k : FixedBytes Config.keyLen} {w : FixedBytes Config.windowLen} {n : BitVec 8}
    {title : FixedBytes Config.titleLen} {ctr : FixedBytes Config.ctrLen} (hp : s.phase = .envelope)
    (hk : s.key = some k) (hw : s.win = some w) (hn : s.ctLen = some n) (ht : s.sysTitle = some title)
    (hc : s.frameCtr = some ctr) :
    exec .decrypt s = .next (decryptCycle Config.tagLen Config.aad k title ctr (spanOf w n) s) := by
  simp [exec, execDecrypt, decryptWith, hp, hk, hw, hn, ht, hc]

theorem timerExpiry_of_recover {s : State} (hp : s.phase = .recover) : timerExpiry s = .next s.endPause := by
  simp [timerExpiry, hp]

theorem timerExpiry_of_ne_recover {s : State} (hp : s.phase ≠ .recover) :
    timerExpiry s = .fault .timerNotEnabled := by
  simp [timerExpiry, hp]

theorem frameStep_of_decode_error {f : Bytes} {e : DecodeError} (s : State) (hd : decode f = .error e) :
    frameStep f s = .next (s.refuse (decodeRefusal e)) := by
  simp [frameStep, hd]

theorem frameStep_of_decode_ok {f : Bytes} {i : Instr} (s : State) (hd : decode f = .ok i) :
    frameStep f s = exec i s := by
  simp [frameStep, hd]

/-! ## The phase table (rule R22) -/

/-- `t` is the state the table's cell for `i` asks for after `s`: its phase, and no SEQ refusal; or, where the cell
says "refused", the SEQ refusal alone. -/
def FollowsTable (i : Instr) (s t : State) : Prop :=
  phaseTable s.phase i (dataGood i s) s.key.isSome = some t.phase ∧ t.cstat ≠ .seq ∨
    phaseTable s.phase i (dataGood i s) s.key.isSome = none ∧ t = s.refuse .seq

theorem ldkey_followsTable (k : FixedBytes Config.keyLen) (s : State) :
    ∃ t, exec (.ldkey k.bytes) s = .next t ∧ FollowsTable (.ldkey k.bytes) s t := by
  by_cases hp : s.phase = .idle
  · exact ⟨_, exec_ldkey_of_idle k hp, .inl (by simp [phaseTable_ldkey, hp])⟩
  · exact ⟨_, exec_ldkey_of_ne_idle k hp, .inr (by simp [phaseTable_ldkey, hp])⟩

theorem ldwin_followsTable (w : FixedBytes Config.windowLen) (s : State) :
    ∃ t, exec (.ldwin w.bytes) s = .next t ∧ FollowsTable (.ldwin w.bytes) s t := by
  by_cases hp : s.phase = .recover
  · exact ⟨_, exec_ldwin_of_recover w hp, .inr (by simp [phaseTable_ldwin, hp])⟩
  · exact ⟨_, exec_ldwin_of_ne_recover w hp, .inl (by simp [phaseTable_ldwin, hp])⟩

theorem clr_followsTable (s : State) : ∃ t, exec .clr s = .next t ∧ FollowsTable .clr s t := by
  by_cases hp : s.phase = .recover
  · exact ⟨_, exec_clr_of_recover hp, .inr (by simp [phaseTable_clr, hp])⟩
  · exact ⟨_, exec_clr_of_ne_recover hp, .inl (by simp [phaseTable_clr, hp])⟩

theorem StateInv.split_followsTable {s : State} (h : StateInv s) :
    ∃ t, exec .split s = .next t ∧ FollowsTable .split s t := by
  by_cases hp : s.phase = .loaded
  · obtain ⟨w, hw⟩ := h.exists_win (.inl hp)
    cases hv : validWindow w with
    | true =>
      exact ⟨_, exec_split_of_valid hp hw hv, .inl (by simp [phaseTable_split, dataGood, hp, hw, hv])⟩
    | false =>
      exact ⟨_, exec_split_of_invalid hp hw hv,
        .inl (by simp [phaseTable_split, dataGood, hp, hw, hv, CycleError.nextPhase])⟩
  · exact ⟨_, exec_split_of_ne_loaded hp, .inr (by simp [phaseTable_split, hp])⟩

/-- The phase an authenticated decryption leads to: DONE with a plaintext, IDLE without one. -/
theorem decryptCycle_phase (tl : Config.TagLen) (a : Config.Aad) (k : FixedBytes Config.keyLen)
    (title : FixedBytes Config.titleLen) (ctr : FixedBytes Config.ctrLen) (span : Bytes) (s : State) :
    (decryptCycle tl a k title ctr span s).phase =
      if (authDecrypt tl.len a.bytes k (nonceOf title ctr) span).isOk then .done else .idle := by
  unfold decryptCycle
  cases authDecrypt tl.len a.bytes k (nonceOf title ctr) span with
  | ok p => rfl
  | error cause => rfl

/-- An authenticated decryption is an accepted command, whatever it finds. -/
theorem decryptCycle_cstat (tl : Config.TagLen) (a : Config.Aad) (k : FixedBytes Config.keyLen)
    (title : FixedBytes Config.titleLen) (ctr : FixedBytes Config.ctrLen) (span : Bytes) (s : State) :
    (decryptCycle tl a k title ctr span s).cstat = .ok := by
  obtain ⟨-, he⟩ | ⟨-, -, he⟩ | ⟨-, -, he⟩ := decryptCycle_cases tl a k title ctr span s <;> rw [he] <;> rfl

/-- What "length and tag are good" means of `DECRYPT` when its inputs hold values. -/
theorem dataGood_decrypt {s : State} {k : FixedBytes Config.keyLen} {w : FixedBytes Config.windowLen} {n : BitVec 8}
    {title : FixedBytes Config.titleLen} {ctr : FixedBytes Config.ctrLen} (hk : s.key = some k) (hw : s.win = some w)
    (hn : s.ctLen = some n) (ht : s.sysTitle = some title) (hc : s.frameCtr = some ctr) :
    dataGood .decrypt s =
      (authDecrypt Config.tagLen.len Config.aad.bytes k (nonceOf title ctr) (spanOf w n)).isOk := by
  simp only [dataGood, hk, hw, hn, ht, hc]
  cases authDecrypt Config.tagLen.len Config.aad.bytes k (nonceOf title ctr) (spanOf w n) with
  | ok p => rfl
  | error cause => rfl

theorem StateInv.decrypt_followsTable {s : State} (h : StateInv s) :
    ∃ t, exec .decrypt s = .next t ∧ FollowsTable .decrypt s t := by
  by_cases hp : s.phase = .envelope
  · obtain ⟨w, hw⟩ := h.exists_win (.inr hp)
    obtain ⟨-, -, -, ht, hc, hn⟩ := h.envelope_of_window w hp hw
    cases hk : s.key with
    | none => exact ⟨_, exec_decrypt_of_no_key hp hk, .inl (by simp [phaseTable_decrypt, hp, hk, RefuseCause.cstat])⟩
    | some k =>
      refine ⟨_, exec_decrypt_of_key hp hk hw hn ht hc, .inl ⟨?_, ?_⟩⟩
      · simp [phaseTable_decrypt, hp, hk, dataGood_decrypt hk hw hn ht hc, decryptCycle_phase]
      · simp [decryptCycle_cstat]
  · exact ⟨_, exec_decrypt_of_ne_envelope hp, .inr (by simp [phaseTable_decrypt, hp])⟩

theorem StateInv.exec_followsTable {s : State} {i : Instr} (h : StateInv s) (hi : i.wellFormed = true) :
    ∃ t, exec i s = .next t ∧ FollowsTable i s t := by
  cases i with
  | ldkey data => exact ldkey_followsTable ⟨data, by simpa [Instr.wellFormed] using hi⟩ s
  | ldwin data => exact ldwin_followsTable ⟨data, by simpa [Instr.wellFormed] using hi⟩ s
  | split => exact h.split_followsTable
  | decrypt => exact h.decrypt_followsTable
  | clr => exact clr_followsTable s

/-- Settles O24: each command's column of the table, the timer's, and the frames that are no command. -/
theorem phaseTableHolds : Obligations.PhaseTableHolds := by
  refine ⟨fun s i h hi => ?_, fun s hp => ⟨_, timerExpiry_of_recover hp, rfl⟩,
    fun s hp => timerExpiry_of_ne_recover hp, fun s f rest e hi hd => ?_⟩
  · obtain ⟨t, hx, ⟨htable, hseq⟩ | ⟨htable, ht⟩⟩ := h.exec_followsTable hi
    · exact ⟨t, hx, by rw [htable]; exact ⟨rfl, hseq⟩⟩
    · exact ⟨t, hx, by rw [htable]; exact ht⟩
  · exact ⟨_, (step_frame hi).trans (frameStep_of_decode_error _ hd), rfl⟩

/-! ## What the host sees (rules R33, R35, R63) -/

/-- The host sees neither the window nor more of the key than whether it is there (rules R23, R35). -/
theorem view_eq_of_key_win (s : State) (key : Option (FixedBytes Config.keyLen))
    (win : Option (FixedBytes Config.windowLen)) (hk : s.key.isSome = key.isSome) :
    s.view = { s with key := key, win := win }.view := by
  simp only [State.view, State.status, State.keyValid, hk]
  rfl

/-! ## States that differ in the key's bytes only (rule R23) -/

theorem SameButKeyBytes.refl (s : State) : SameButKeyBytes s s := ⟨rfl, rfl⟩

/-- An operation that passes the key through unread keeps two states the same but for its bytes. -/
theorem SameButKeyBytes.map {s s' : State} (h : SameButKeyBytes s s') (f : State → State)
    (hf : ∀ s k, f { s with key := k } = { f s with key := k }) : SameButKeyBytes (f s) (f s') := by
  obtain ⟨hs, hk⟩ := h
  have hkey (u : State) : (f u).key = u.key := (congrArg State.key (hf u u.key) :)
  exact ⟨by rw [hkey s', ← hf, ← hs], by rw [hkey, hkey, hk]⟩

/-- An operation that overwrites the key makes them equal. -/
theorem SameButKeyBytes.map_of_overwrites {s s' : State} (h : SameButKeyBytes s s') (f : State → State)
    (hf : ∀ s k, f { s with key := k } = f s) : SameButKeyBytes (f s) (f s') := by
  have heq : f s' = f s := by rw [h.1, hf]
  exact heq ▸ .refl _

section
variable {s s' : State} (h : SameButKeyBytes s s')
include h

theorem SameButKeyBytes.phase_eq : s'.phase = s.phase := (congrArg State.phase h.1 :)

theorem SameButKeyBytes.win_eq : s'.win = s.win := (congrArg State.win h.1 :)

theorem SameButKeyBytes.inputs_eq : s'.inputs = s.inputs := (congrArg State.inputs h.1 :)

theorem SameButKeyBytes.view_eq : s.view = s'.view := by
  rw [h.1]
  exact view_eq_of_key_win s s'.key s.win h.2

theorem SameButKeyBytes.withInputs (rest : List Input) :
    SameButKeyBytes { s with inputs := rest } { s' with inputs := rest } :=
  h.map (fun s => { s with inputs := rest }) fun _ _ => rfl

theorem SameButKeyBytes.refuse (c : RefuseCause) : SameButKeyBytes (s.refuse c) (s'.refuse c) :=
  h.map (·.refuse c) fun _ _ => rfl

theorem SameButKeyBytes.sameOutcome_execLdkey (data : Bytes) :
    SameOutcome SameButKeyBytes (execLdkey data s) (execLdkey data s') := by
  simp only [execLdkey, h.phase_eq]
  split
  · exact h.refuse _
  · split
    · exact h.map_of_overwrites (fun s => (s.storeKey _).accept) fun _ _ => rfl
    · exact h.refuse _

theorem SameButKeyBytes.sameOutcome_execLdwin (data : Bytes) :
    SameOutcome SameButKeyBytes (execLdwin data s) (execLdwin data s') := by
  simp only [execLdwin, h.phase_eq]
  split
  · exact h.refuse _
  · split
    · exact h.refuse _
    · exact h.map (fun s => (s.beginCycle _).accept) fun _ _ => rfl

theorem SameButKeyBytes.sameOutcome_execClr : SameOutcome SameButKeyBytes (execClr s) (execClr s') := by
  simp only [execClr, h.phase_eq]
  split
  · exact h.refuse _
  · exact h.map (fun s => s.abandonCycle.accept) fun _ _ => rfl

theorem SameButKeyBytes.sameOutcome_execSplit : SameOutcome SameButKeyBytes (execSplit s) (execSplit s') := by
  simp only [execSplit, h.phase_eq, h.win_eq]
  split
  · split
    · rfl
    · split
      · exact h.map (fun s => s.accept.storeEnvelope _) fun _ _ => rfl
      · exact h.map (fun s => s.accept.raise _) fun _ _ => rfl
  · exact h.refuse _

theorem SameButKeyBytes.sameOutcome_timerExpiry : SameOutcome SameButKeyBytes (timerExpiry s) (timerExpiry s') := by
  simp only [timerExpiry, h.phase_eq]
  split
  · exact h.map (·.endPause) fun _ _ => rfl
  · rfl

/-- Every command but a `DECRYPT` in ENVELOPE treats the two states alike. -/
theorem SameButKeyBytes.sameOutcome_exec {i : Instr} (hi : i = .decrypt → s.phase ≠ .envelope) :
    SameOutcome SameButKeyBytes (exec i s) (exec i s') := by
  cases i with
  | ldkey data => exact h.sameOutcome_execLdkey data
  | ldwin data => exact h.sameOutcome_execLdwin data
  | split => exact h.sameOutcome_execSplit
  | decrypt =>
    rw [exec_decrypt_of_ne_envelope (hi rfl), exec_decrypt_of_ne_envelope (h.phase_eq ▸ hi rfl)]
    exact h.refuse _
  | clr => exact h.sameOutcome_execClr

theorem SameButKeyBytes.sameOutcome_frameStep {f : Bytes} (hf : decode f = .ok .decrypt → s.phase ≠ .envelope) :
    SameOutcome SameButKeyBytes (frameStep f s) (frameStep f s') := by
  cases hd : decode f with
  | ok i =>
    rw [frameStep_of_decode_ok _ hd, frameStep_of_decode_ok _ hd]
    exact h.sameOutcome_exec fun hi => hf (hi ▸ hd)
  | error e =>
    rw [frameStep_of_decode_error _ hd, frameStep_of_decode_error _ hd]
    exact h.refuse _

theorem SameButKeyBytes.sameOutcome_quietStep : SameOutcome SameButKeyBytes (quietStep s) (quietStep s') := by
  simp only [quietStep, h.phase_eq]
  split
  · exact h.sameOutcome_timerExpiry
  · exact h

theorem SameButKeyBytes.sameOutcome_step
    (hd : ∀ f rest, s.inputs = .frame f :: rest → decode f = .ok .decrypt → s.phase ≠ .envelope) :
    SameOutcome SameButKeyBytes (step s) (step s') := by
  have hi' := h.inputs_eq
  match hi : s.inputs with
  | [] =>
    rw [step_quiet hi, step_quiet (hi'.trans hi)]
    exact h.sameOutcome_quietStep
  | .frame f :: rest =>
    rw [step_frame hi, step_frame (hi'.trans hi)]
    exact (h.withInputs rest).sameOutcome_frameStep (hd f rest hi)
  | .timer :: rest =>
    rw [step_timer hi, step_timer (hi'.trans hi)]
    exact (h.withInputs rest).sameOutcome_timerExpiry
  | .reset :: rest =>
    rw [step_reset hi, step_reset (hi'.trans hi)]
    exact (h.withInputs rest).map_of_overwrites (·.applyReset) fun _ _ => rfl

end

/-- Settles O36: the view shows only whether the key is there, and no step but a `DECRYPT` in ENVELOPE reads it. -/
theorem keyBytesInfluenceOnlyDecrypt : Obligations.KeyBytesInfluenceOnlyDecrypt :=
  fun _ _ h => ⟨h.view_eq, h.sameOutcome_step⟩

/-! ## Reset, the status word, the view's gates and GETRESP -/

/-- Rule R39: after the reset input every bit of `STATUS` is 0. -/
theorem State.applyReset_status (s : State) : s.applyReset.status = 0x0000#16 :=
  calc
    s.applyReset.status = State.reset.status := rfl
    _ = 0x0000#16 := by decide

/-- Settles O1: the reset state is the table, and it takes nothing from before but `OUT` and the inputs. -/
theorem resetInputClearsEverything : Obligations.ResetInputClearsEverything := by
  refine ⟨fun s rest hi => ⟨_, step_reset hi, rfl, rfl, rfl, rfl, rfl, rfl, rfl, rfl, rfl, rfl, rfl, rfl, rfl,
    State.applyReset_status _, timerExpiry_of_ne_recover (by simp), rfl, rfl⟩, fun s s' rest hi hi' hout => ?_⟩
  rw [step_reset hi, step_reset hi', State.applyReset, State.applyReset, hout]

/-- Rule R33, bit by bit: `STATUS` is a concatenation, and each bit is one of its field's. -/
theorem State.status_getLsbD (s : State) (i : Nat) :
    s.status.getLsbD i =
      if i < 3 then s.phase.code.getLsbD i
      else if i < 4 then s.keyValid
      else if i < 5 then s.envValid
      else if i < 6 then s.apduValid
      else if i < 7 then s.getresp
      else if i < 8 then false
      else if i < 11 then s.err.code.getLsbD (i - 8)
      else if i < 12 then false
      else if i < 15 then s.cstat.code.getLsbD (i - 12)
      else false := by
  have hlt (a b : Nat) : i - a < b + 1 ↔ i < a + b + 1 := by omega
  have hzero (a : Nat) : i - a = 0 ↔ i < a + 1 := by omega
  change BitVec.getLsbD (w := 1 + 3 + 1 + 3 + 1 + 1 + 1 + 1 + 1 + 3) (_ ++ _) i = _
  simp only [BitVec.getLsbD_append, BitVec.getLsbD_ofBool, Nat.sub_sub]
  simp +contextual [hlt, hzero]

/-- Settles O40: each field is read off the concatenation that `STATUS` is. -/
theorem statusLayout : Obligations.StatusLayout := by
  refine ⟨fun s => ⟨?_, s.status_getLsbD 3, (s.status_getLsbD 4).trans (by simp [State.envValid]), s.status_getLsbD 5,
    s.status_getLsbD 6, s.status_getLsbD 7, ?_, s.status_getLsbD 11, ?_, s.status_getLsbD 15⟩,
    by decide, by decide, by decide⟩
  all_goals
    ext i hi
    rw [BitVec.getElem_extractLsb', State.status_getLsbD]
    interval_cases i <;> rfl

/-- A register that holds a value exactly when its gate is open is in the view exactly then. -/
theorem isSome_map_gate {α β : Type} {gate : Bool} {o : Option α} (f : α → β) (h : o.isSome = gate) :
    ((if gate then o else none).map f).isSome = gate := by
  cases gate with
  | true => simpa using h
  | false => rfl

theorem hostReg_number_le (r : HostReg) : r.number ≤ 7 := by
  cases r <;> decide

/-- Settles O41: the gates are the invariant's valid bits, and neither `KEY` nor `WIN` is behind one. -/
theorem hostViewGates : Obligations.HostViewGates := by
  refine ⟨fun s h => ⟨rfl, rfl, ?_, ?_, fun hv => ?_, fun hv => ?_⟩, fun s s' hs hk => ?_,
    rfl, rfl, rfl, rfl, rfl, rfl, rfl, rfl, hostReg_number_le⟩
  · rintro r (rfl | rfl | rfl | rfl | rfl)
    · exact isSome_map_gate _ h.mbusStart_valid
    · exact isSome_map_gate _ h.frameLen_valid
    · exact isSome_map_gate _ h.sysTitle_valid
    · exact isSome_map_gate _ h.frameCtr_valid
    · exact isSome_map_gate _ h.ctLen_valid
  · rintro r (rfl | rfl)
    · exact isSome_map_gate _ h.apduLen_valid
    · exact isSome_map_gate _ h.apdu_valid
  · simp [State.view, View.read, hv]
  · simp [State.view, View.read, hv]
  · rw [hs]
    exact view_eq_of_key_win s s'.key s'.win hk

/-- Settles O42: the invariant's clause on `GETRESP`, with the two bytes of `APDU_TAG` written out. -/
theorem getrespMeaning : Obligations.GetrespMeaning := by
  intro s h
  constructor
  · rw [h.getresp_means]
    cases ha : s.apdu with
    | none => simp
    | some p =>
      have hv : s.apduValid = true := by rw [← h.apdu_valid, ha]; rfl
      simp [getrespOf, apduTag0, apduTag1, hv, and_assoc]
  · intro hv
    obtain ⟨p, hp⟩ := Option.isSome_iff_exists.1 (h.apdu_valid.trans hv)
    have hd : s.phase = .done := by simpa [State.apduValid] using hv
    exact ⟨h.active_err (.inr (.inr hd)), p, by simp [State.view, hv, hp]⟩

end Sys2Proof.Machine

namespace Sys2Proof

/-! ## Hex text (rule R51) -/

/-- The digits `0` to `F`: reading one gives the nibble it was written for. -/
theorem hexValue_hexDigit {n : Nat} (h : n < 16) : hexValue (hexDigit n) = some n := by
  revert n
  decide

/-- A byte is put together again from its two nibbles. -/
theorem ofNat_nibbles (b : Byte) : BitVec.ofNat 8 (16 * (b.toNat / 16) + b.toNat % 16) = b := by
  rw [Nat.div_add_mod, BitVec.ofNat_toNat, BitVec.setWidth_eq]

/-- Reading hex text is a left inverse of writing it, one pair of digits a byte. -/
@[simp] theorem parseHex_hexText (x : Bytes) : parseHex (hexText x) = some x := by
  induction x with
  | nil => rfl
  | cons b rest ih =>
    have high : hexValue (hexDigit (b.toNat / 16)) = some (b.toNat / 16) := hexValue_hexDigit (by omega)
    have low : hexValue (hexDigit (b.toNat % 16)) = some (b.toNat % 16) := hexValue_hexDigit (by omega)
    simp only [hexText, parseHex, high, low, ih, ofNat_nibbles]

/-- The character at `2i` is the high nibble's digit of byte `i`, and there is one exactly when byte `i` is there. -/
theorem hexText_getElem?_even (x : Bytes) (i : Nat) :
    (hexText x)[2 * i]? = x[i]?.map fun b => hexDigit (b.toNat / 16) := by
  induction x generalizing i with
  | nil => rfl
  | cons b rest ih =>
    cases i with
    | zero => rfl
    | succ i => exact ih i

/-- The character at `2i + 1` is the low nibble's digit of byte `i`, and there is one exactly when byte `i` is there. -/
theorem hexText_getElem?_odd (x : Bytes) (i : Nat) :
    (hexText x)[2 * i + 1]? = x[i]?.map fun b => hexDigit (b.toNat % 16) := by
  induction x generalizing i with
  | nil => rfl
  | cons b rest ih =>
    cases i with
    | zero => rfl
    | succ i => exact ih i

/-- Settles O9: the text is read back pair by pair, and dropping a pair of characters drops one byte. -/
theorem hexTextReadsBack : Obligations.HexTextReadsBack := by
  refine fun x => ⟨parseHex_hexText x, fun i b hb => ⟨?_, ?_⟩⟩
  · rw [hexText_getElem?_even, hb, Option.map_some]
  · rw [hexText_getElem?_odd, hb, Option.map_some]

end Sys2Proof

namespace Sys2Proof

/-! ## The decoder (rules R70 to R74)

Every first byte of the table is `Opcode.byte` of one operation, so a frame is `o.byte :: data` or is refused for its
first byte; decoding such a frame is then a question of its length alone. -/

@[simp] theorem opcodeOf_byte (o : Opcode) : opcodeOf o.byte = some o := by
  cases o <;> decide

/-- Rule R71: the bytes that name an operation are 1 to 5. -/
theorem exists_byte_eq {b : Byte} (hlo : 1 ≤ b.toNat) (hhi : b.toNat ≤ 5) : ∃ o : Opcode, o.byte = b := by
  have of_toNat (o : Opcode) (h : b.toNat = o.byte.toNat) : ∃ o : Opcode, o.byte = b :=
    ⟨o, BitVec.eq_of_toNat_eq h.symm⟩
  obtain h | h | h | h | h : b.toNat = 1 ∨ b.toNat = 2 ∨ b.toNat = 3 ∨ b.toNat = 4 ∨ b.toNat = 5 := by omega
  · exact of_toNat .ldkey h
  · exact of_toNat .ldwin h
  · exact of_toNat .split h
  · exact of_toNat .decrypt h
  · exact of_toNat .clr h

/-- Rule R74: no other byte names one. -/
theorem opcodeOf_eq_none {b : Byte} (h : b.toNat < 1 ∨ 5 < b.toNat) : opcodeOf b = none := by
  have ne_byte (o : Opcode) : b ≠ o.byte := by
    rintro rfl
    cases o <;> simp [Opcode.byte] at h
  have hk := ne_byte .ldkey
  have hw := ne_byte .ldwin
  have hs := ne_byte .split
  have hd := ne_byte .decrypt
  have hc := ne_byte .clr
  simp only [Opcode.byte] at hk hw hs hd hc
  simp [opcodeOf, hk, hw, hs, hd, hc]

/-- The lengths of rule R72, as the statements write them. -/
theorem operandLen_eq (o : Opcode) :
    o.operandLen = if o.byte.toNat = 1 then 16 else if o.byte.toNat = 2 then 282 else 0 := by
  cases o <;> rfl

theorem decode_of_length {o : Opcode} {data : Bytes} (h : data.length = o.operandLen) :
    decode (o.byte :: data) = .ok (o.instr data) := by
  simp [decode, h]

theorem decode_of_length_ne {o : Opcode} {data : Bytes} (h : data.length ≠ o.operandLen) :
    decode (o.byte :: data) = .error .badLength := by
  simp [decode, h]

theorem decode_of_unknown {op : Byte} (data : Bytes) (h : op.toNat < 1 ∨ 5 < op.toNat) :
    decode (op :: data) = .error .unknownOp := by
  simp [decode, opcodeOf_eq_none h]

theorem wellFormed_ldkey {data : Bytes} : (Instr.ldkey data).wellFormed = true ↔ data.length = Config.keyLen :=
  beq_iff_eq

theorem wellFormed_ldwin {data : Bytes} : (Instr.ldwin data).wellFormed = true ↔ data.length = Config.windowLen :=
  beq_iff_eq

/-- The frame of a well-formed command decodes to that command. -/
theorem decode_encode_of_wellFormed {i : Instr} (h : i.wellFormed = true) : decode (encode i) = .ok i := by
  cases i with
  | ldkey data => exact decode_of_length (o := .ldkey) (wellFormed_ldkey.1 h)
  | ldwin data => exact decode_of_length (o := .ldwin) (wellFormed_ldwin.1 h)
  | split => exact decode_of_length (o := .split) rfl
  | decrypt => exact decode_of_length (o := .decrypt) rfl
  | clr => exact decode_of_length (o := .clr) rfl

namespace Machine

/-- A frame that is no command is taken, and its refusal is written to `CSTAT`. -/
theorem step_of_decode_error {s : State} {f : Bytes} {rest : List Input} {e : DecodeError}
    (hi : s.inputs = .frame f :: rest) (hd : decode f = .error e) :
    step s = .next ({ s with inputs := rest }.refuse (decodeRefusal e)) :=
  (step_frame hi).trans (frameStep_of_decode_error _ hd)

/-- A frame that is a command is taken, and the command performed. -/
theorem step_of_decode_ok {s : State} {f : Bytes} {rest : List Input} {i : Instr}
    (hi : s.inputs = .frame f :: rest) (hd : decode f = .ok i) : step s = exec i { s with inputs := rest } :=
  (step_frame hi).trans (frameStep_of_decode_ok _ hd)

/-- Settles O5: the first byte names an operation or is refused, and then the length fits or is refused. -/
theorem illegalFramesAreRefused : Obligations.IllegalFramesAreRefused := by
  intro s f rest hi
  refine ⟨?_, ?_, ?_, ?_⟩
  · rintro rfl
    exact step_of_decode_error hi rfl
  · rintro op data rfl hop
    have hout : op.toNat < 1 ∨ 5 < op.toNat := by
      obtain rfl | hop := hop
      · exact .inl (by decide)
      · exact .inr hop
    exact step_of_decode_error hi (decode_of_unknown data hout)
  · rintro op data rfl hlo hhi hlen
    obtain ⟨o, rfl⟩ := exists_byte_eq hlo hhi
    exact step_of_decode_error hi (decode_of_length_ne (by rwa [operandLen_eq]))
  · rintro op data rfl hlo hhi hlen
    obtain ⟨o, rfl⟩ := exists_byte_eq hlo hhi
    have hd := decode_of_length (o := o) (data := data) (by rwa [operandLen_eq])
    exact ⟨_, hd, step_of_decode_ok hi hd⟩

/-- Settles O6: the decoder by first byte and length, then the two commands that store their operand. -/
theorem decodeFollowsTheTable : Obligations.DecodeFollowsTheTable := by
  refine ⟨rfl, fun op data hop => decode_of_unknown data hop, ?_, fun data h => decode_of_length (o := .ldkey) h,
    fun data h => decode_of_length (o := .ldwin) h, decode_of_length (o := .split) rfl,
    decode_of_length (o := .decrypt) rfl, decode_of_length (o := .clr) rfl, ?_, ?_⟩
  · intro op data hlo hhi hlen
    obtain ⟨o, rfl⟩ := exists_byte_eq hlo hhi
    exact decode_of_length_ne (by rwa [operandLen_eq])
  · intro s data hlen hp
    exact ⟨_, exec_ldkey_of_idle ⟨data, hlen⟩ hp, rfl⟩
  · intro s data hlen hp
    exact ⟨_, exec_ldwin_of_ne_recover ⟨data, hlen⟩ hp, rfl⟩

/-- Settles O8: each frame is an operation's byte with an operand that fits it or does not. -/
theorem writtenFramesDecode : Obligations.WrittenFramesDecode :=
  ⟨decode_of_length (o := .split) rfl, decode_of_length (o := .decrypt) rfl, decode_of_length (o := .clr) rfl,
    decode_of_length (o := .ldkey) rfl, rfl, decode_of_length_ne (o := .split) (by decide)⟩

/-! ## States that differ in unexamined window bytes only (rule R83) -/

/-- Two states so related are one state with two windows and two lists of inputs. -/
theorem SameButUnexamined.exists_eq {s s' : State} (h : SameButUnexamined s s') :
    ∃ win inputs, s' = { s with win := win, inputs := inputs } ∧ SameExaminedWin s.win win ∧
      List.Forall₂ SameExaminedInput s.inputs inputs :=
  ⟨s'.win, s'.inputs, h⟩

theorem sameExaminedInputs_refl (is : List Input) : List.Forall₂ SameExaminedInput is is :=
  List.forall₂_same.2 fun _ _ => .inl rfl

theorem SameButUnexamined.refl (s : State) : SameButUnexamined s s :=
  ⟨rfl, SameExaminedWin.refl _, sameExaminedInputs_refl _⟩

/-- The host sees neither the window nor what it will present itself (rule R35). -/
theorem SameButUnexamined.view_eq {s s' : State} (h : SameButUnexamined s s') : s.view = s'.view := by
  obtain ⟨win, inputs, rfl, -, -⟩ := h.exists_eq
  rfl

/-- What is related to a next state is a next state. -/
theorem SameOutcome.exists_next {R : State → State → Prop} {t : State} {r' : Result}
    (h : SameOutcome R (.next t) r') : ∃ t', r' = .next t' ∧ R t t' := by
  cases r' with
  | next t' => exact ⟨t', rfl, h⟩
  | fault _ => exact h.elim
  | refused _ => exact h.elim

theorem SameOutcome.mono {R R' : State → State → Prop} {r r' : Result} (h : SameOutcome R r r')
    (hR : ∀ t t', R t t' → R' t t') : SameOutcome R' r r' := by
  cases r with
  | next t =>
    obtain ⟨t', rfl, ht⟩ := h.exists_next
    exact hR t t' ht
  | fault _ => cases r' <;> exact h
  | refused _ => cases r' <;> exact h

section
variable {s s' : State} (h : SameButUnexamined s s')
include h

theorem SameButUnexamined.phase_eq : s'.phase = s.phase := (congrArg State.phase h.1 :)

theorem SameButUnexamined.key_eq : s'.key = s.key := (congrArg State.key h.1 :)

theorem SameButUnexamined.ctLen_eq : s'.ctLen = s.ctLen := (congrArg State.ctLen h.1 :)

theorem SameButUnexamined.sysTitle_eq : s'.sysTitle = s.sysTitle := (congrArg State.sysTitle h.1 :)

theorem SameButUnexamined.frameCtr_eq : s'.frameCtr = s.frameCtr := (congrArg State.frameCtr h.1 :)

/-- Where the one holds a window, the other holds one with the same examined bytes. -/
theorem SameButUnexamined.exists_win {w : FixedBytes Config.windowLen} (hw : s.win = some w) :
    ∃ w', s'.win = some w' ∧ SameExamined w w' := by
  have hwin := h.2.1
  rw [hw] at hwin
  generalize s'.win = o at hwin ⊢
  cases hwin with
  | some hww => exact ⟨_, rfl, hww⟩

/-! ### The operations on the state: each keeps the window, drops it or overwrites it -/

theorem SameButUnexamined.withInputs {is is' : List Input} (hinputs : List.Forall₂ SameExaminedInput is is') :
    SameButUnexamined { s with inputs := is } { s' with inputs := is' } := by
  obtain ⟨win, _, rfl, hwin, -⟩ := h.exists_eq
  exact ⟨rfl, hwin, hinputs⟩

theorem SameButUnexamined.refuse (c : RefuseCause) : SameButUnexamined (s.refuse c) (s'.refuse c) := by
  obtain ⟨win, inputs, rfl, hwin, hinputs⟩ := h.exists_eq
  exact ⟨rfl, hwin, hinputs⟩

theorem SameButUnexamined.accept : SameButUnexamined s.accept s'.accept := by
  obtain ⟨win, inputs, rfl, hwin, hinputs⟩ := h.exists_eq
  exact ⟨rfl, hwin, hinputs⟩

theorem SameButUnexamined.storeKey (k : FixedBytes Config.keyLen) :
    SameButUnexamined (s.storeKey k) (s'.storeKey k) := by
  obtain ⟨win, inputs, rfl, hwin, hinputs⟩ := h.exists_eq
  exact ⟨rfl, hwin, hinputs⟩

theorem SameButUnexamined.storeEnvelope (e : Envelope) :
    SameButUnexamined (s.storeEnvelope e) (s'.storeEnvelope e) := by
  obtain ⟨win, inputs, rfl, hwin, hinputs⟩ := h.exists_eq
  exact ⟨rfl, hwin, hinputs⟩

theorem SameButUnexamined.endPause : SameButUnexamined s.endPause s'.endPause := by
  obtain ⟨win, inputs, rfl, hwin, hinputs⟩ := h.exists_eq
  exact ⟨rfl, hwin, hinputs⟩

theorem SameButUnexamined.raise (e : CycleError) : SameButUnexamined (s.raise e) (s'.raise e) := by
  obtain ⟨win, inputs, rfl, -, hinputs⟩ := h.exists_eq
  exact ⟨rfl, .none, hinputs⟩

theorem SameButUnexamined.abandonCycle : SameButUnexamined s.abandonCycle s'.abandonCycle := by
  obtain ⟨win, inputs, rfl, -, hinputs⟩ := h.exists_eq
  exact ⟨rfl, .none, hinputs⟩

theorem SameButUnexamined.releaseApdu (p : Bytes) : SameButUnexamined (s.releaseApdu p) (s'.releaseApdu p) := by
  obtain ⟨win, inputs, rfl, -, hinputs⟩ := h.exists_eq
  exact ⟨rfl, .none, hinputs⟩

theorem SameButUnexamined.applyReset : SameButUnexamined s.applyReset s'.applyReset := by
  obtain ⟨win, inputs, rfl, -, hinputs⟩ := h.exists_eq
  exact ⟨rfl, .none, hinputs⟩

theorem SameButUnexamined.beginCycle {w w' : FixedBytes Config.windowLen} (hw : SameExamined w w') :
    SameButUnexamined (s.beginCycle w) (s'.beginCycle w') := by
  obtain ⟨win, inputs, rfl, -, hinputs⟩ := h.exists_eq
  exact ⟨rfl, .some hw, hinputs⟩

theorem SameButUnexamined.decryptCycle (tl : Config.TagLen) (a : Config.Aad) (k : FixedBytes Config.keyLen)
    (title : FixedBytes Config.titleLen) (ctr : FixedBytes Config.ctrLen) (span : Bytes) :
    SameButUnexamined (decryptCycle tl a k title ctr span s) (decryptCycle tl a k title ctr span s') := by
  unfold Machine.decryptCycle
  cases authDecrypt tl.len a.bytes k (nonceOf title ctr) span with
  | ok p => exact h.accept.releaseApdu p
  | error cause => exact h.accept.raise _

/-! ### The commands and the timer -/

theorem SameButUnexamined.sameOutcome_ldkey (k : FixedBytes Config.keyLen) :
    SameOutcome SameButUnexamined (exec (.ldkey k.bytes) s) (exec (.ldkey k.bytes) s') := by
  by_cases hp : s.phase = .idle
  · rw [exec_ldkey_of_idle k hp, exec_ldkey_of_idle k (h.phase_eq.trans hp)]
    exact (h.storeKey k).accept
  · rw [exec_ldkey_of_ne_idle k hp, exec_ldkey_of_ne_idle k (h.phase_eq ▸ hp)]
    exact h.refuse _

/-- Also for two windows, as long as they agree on the examined bytes. -/
theorem SameButUnexamined.sameOutcome_ldwin {w w' : FixedBytes Config.windowLen} (hw : SameExamined w w') :
    SameOutcome SameButUnexamined (exec (.ldwin w.bytes) s) (exec (.ldwin w'.bytes) s') := by
  by_cases hp : s.phase = .recover
  · rw [exec_ldwin_of_recover w hp, exec_ldwin_of_recover w' (h.phase_eq.trans hp)]
    exact h.refuse _
  · rw [exec_ldwin_of_ne_recover w hp, exec_ldwin_of_ne_recover w' (h.phase_eq ▸ hp)]
    exact (h.beginCycle hw).accept

theorem SameButUnexamined.sameOutcome_clr : SameOutcome SameButUnexamined (exec .clr s) (exec .clr s') := by
  by_cases hp : s.phase = .recover
  · rw [exec_clr_of_recover hp, exec_clr_of_recover (h.phase_eq.trans hp)]
    exact h.refuse _
  · rw [exec_clr_of_ne_recover hp, exec_clr_of_ne_recover (h.phase_eq ▸ hp)]
    exact h.abandonCycle.accept

/-- `SPLIT` reads the window through its three tests and its envelope, which see examined bytes only. -/
theorem SameButUnexamined.sameOutcome_split (hinv : s.phase = .loaded → StateInv s) :
    SameOutcome SameButUnexamined (exec .split s) (exec .split s') := by
  by_cases hp : s.phase = .loaded
  · obtain ⟨w, hw⟩ := (hinv hp).exists_win (.inl hp)
    obtain ⟨w', hw', hww⟩ := h.exists_win hw
    have hp' := h.phase_eq.trans hp
    have hvalid := validWindow_congr hww
    cases hv : validWindow w with
    | true =>
      rw [exec_split_of_valid hp hw hv, exec_split_of_valid hp' hw' (hvalid ▸ hv), ← envelopeOf_congr hww]
      exact h.accept.storeEnvelope _
    | false =>
      rw [exec_split_of_invalid hp hw hv, exec_split_of_invalid hp' hw' (hvalid ▸ hv)]
      exact h.accept.raise _
  · rw [exec_split_of_ne_loaded hp, exec_split_of_ne_loaded (h.phase_eq ▸ hp)]
    exact h.refuse _

/-- `DECRYPT` reads the window's span, and by the invariant the span is the one the window's own length byte delimits,
all of it examined. -/
theorem SameButUnexamined.sameOutcome_decrypt (hinv : s.phase = .envelope → StateInv s) :
    SameOutcome SameButUnexamined (exec .decrypt s) (exec .decrypt s') := by
  by_cases hp : s.phase = .envelope
  · have hp' := h.phase_eq.trans hp
    cases hk : s.key with
    | none =>
      rw [exec_decrypt_of_no_key hp hk, exec_decrypt_of_no_key hp' (h.key_eq.trans hk)]
      exact h.refuse _
    | some k =>
      obtain ⟨w, hw⟩ := (hinv hp).exists_win (.inr hp)
      obtain ⟨w', hw', hww⟩ := h.exists_win hw
      obtain ⟨-, -, -, ht, hc, hn⟩ := (hinv hp).envelope_of_window w hp hw
      have hspan : spanOf w' (envelopeOf w).ctLen = spanOf w (envelopeOf w).ctLen := by
        rw [spanOf_congr hww, envelopeOf_congr hww]
      rw [exec_decrypt_of_key hp hk hw hn ht hc, exec_decrypt_of_key hp' (h.key_eq.trans hk) hw' (h.ctLen_eq.trans hn)
        (h.sysTitle_eq.trans ht) (h.frameCtr_eq.trans hc), hspan]
      exact h.decryptCycle ..
  · rw [exec_decrypt_of_ne_envelope hp, exec_decrypt_of_ne_envelope (h.phase_eq ▸ hp)]
    exact h.refuse _

theorem SameButUnexamined.sameOutcome_timerExpiry :
    SameOutcome SameButUnexamined (timerExpiry s) (timerExpiry s') := by
  by_cases hp : s.phase = .recover
  · rw [timerExpiry_of_recover hp, timerExpiry_of_recover (h.phase_eq.trans hp)]
    exact h.endPause
  · rw [timerExpiry_of_ne_recover hp, timerExpiry_of_ne_recover (h.phase_eq ▸ hp)]
    rfl

theorem SameButUnexamined.sameOutcome_quietStep :
    SameOutcome SameButUnexamined (quietStep s) (quietStep s') := by
  simp only [quietStep, h.phase_eq]
  split
  · exact h.sameOutcome_timerExpiry
  · exact h

end

/-- A command with an operand of the wrong length is refused in every state (notes/assumptions/9.md). -/
theorem exec_of_not_wellFormed {i : Instr} (s : State) (hi : i.wellFormed = false) :
    exec i s = .next (s.refuse .badLength) := by
  cases i with
  | ldkey data =>
    have hn : operandOf Config.keyLen data = none := operandOf_eq_none.2 (by simpa [Instr.wellFormed] using hi)
    simp [exec, execLdkey, hn]
  | ldwin data =>
    have hn : operandOf Config.windowLen data = none := operandOf_eq_none.2 (by simpa [Instr.wellFormed] using hi)
    simp [exec, execLdwin, hn]
  | split => cases hi
  | decrypt => cases hi
  | clr => cases hi

/-- What the commands need of a state: it meets the invariant, or it is in RECOVER, where they are all refused. -/
def InvOutsideRecover (s : State) : Prop := s.phase ≠ .recover → StateInv s

theorem InvOutsideRecover.withInputs {s : State} (h : InvOutsideRecover s) (is : List Input) :
    InvOutsideRecover { s with inputs := is } :=
  fun hp => (h hp).withInputs is

theorem InvOutsideRecover.refuse {s : State} (h : InvOutsideRecover s) (c : RefuseCause) :
    InvOutsideRecover (s.refuse c) :=
  fun hp => (h hp).refuse c

section
variable {s s' : State} (h : SameButUnexamined s s') (hinv : InvOutsideRecover s)
include h hinv

/-- Every command treats the two states alike. -/
theorem SameButUnexamined.sameOutcome_exec (i : Instr) :
    SameOutcome SameButUnexamined (exec i s) (exec i s') := by
  cases hi : i.wellFormed with
  | false =>
    rw [exec_of_not_wellFormed s hi, exec_of_not_wellFormed s' hi]
    exact h.refuse _
  | true =>
    cases i with
    | ldkey data => exact h.sameOutcome_ldkey ⟨data, wellFormed_ldkey.1 hi⟩
    | ldwin data => exact h.sameOutcome_ldwin (.refl ⟨data, wellFormed_ldwin.1 hi⟩)
    | split => exact h.sameOutcome_split fun hp => hinv (by simp [hp])
    | decrypt => exact h.sameOutcome_decrypt fun hp => hinv (by simp [hp])
    | clr => exact h.sameOutcome_clr

theorem SameButUnexamined.sameOutcome_frameStep (f : Bytes) :
    SameOutcome SameButUnexamined (frameStep f s) (frameStep f s') := by
  cases hd : decode f with
  | ok i =>
    rw [frameStep_of_decode_ok _ hd, frameStep_of_decode_ok _ hd]
    exact h.sameOutcome_exec hinv i
  | error e =>
    rw [frameStep_of_decode_error _ hd, frameStep_of_decode_error _ hd]
    exact h.refuse _

/-- Every agent's step treats them alike, also where the host presents the one and the other of two windows. -/
theorem SameButUnexamined.sameOutcome_inputStep {e e' : Input} (he : SameExaminedInput e e') :
    SameOutcome SameButUnexamined (inputStep e s) (inputStep e' s') := by
  obtain rfl | ⟨w, w', hw, rfl, rfl⟩ := he
  · cases e with
    | frame f => exact h.sameOutcome_frameStep hinv f
    | timer => exact h.sameOutcome_timerExpiry
    | reset => exact h.applyReset
  · have hd (w : FixedBytes Config.windowLen) := decode_encode_of_wellFormed (wellFormed_ldwin.2 w.size)
    simp only [inputStep]
    rw [frameStep_of_decode_ok _ (hd w), frameStep_of_decode_ok _ (hd w')]
    exact h.sameOutcome_ldwin hw

theorem SameButUnexamined.sameOutcome_step : SameOutcome SameButUnexamined (step s) (step s') := by
  have hinputs := h.2.2
  unfold step
  cases hi : s.inputs with
  | nil =>
    rw [hi] at hinputs
    rw [List.forall₂_nil_left_iff.1 hinputs]
    exact h.sameOutcome_quietStep
  | cons e rest =>
    rw [hi] at hinputs
    obtain ⟨e', rest', he, hrest, hi'⟩ := List.forall₂_cons_left_iff.1 hinputs
    rw [hi']
    exact (h.withInputs hrest).sameOutcome_inputStep (hinv.withInputs rest) he

end

/-- Settles O53: the view leaves the window out, and every read of it sees examined bytes only. -/
theorem stepKeepsUnexaminedUnseen : Obligations.StepKeepsUnexaminedUnseen :=
  fun _ _ hinv h => ⟨h.view_eq, (h.sameOutcome_step fun _ => hinv).mono fun _ _ ht => ⟨ht, ht.view_eq⟩⟩

/-! ## One cycle over two windows (rules R83, R85) -/

/-- No command touches the inputs. -/
theorem ExecEffect.inputs_eq {s t : State} {i : Instr} (he : ExecEffect s i t) : t.inputs = s.inputs := by
  cases he <;> rfl

/-- Every step takes the first input, if there is one, and leaves the others. -/
theorem StepEffect.inputs_eq {s t : State} (he : StepEffect s t) : t.inputs = s.inputs.tail := by
  cases he with
  | waits hi _ => simp [hi]
  | quietPauseEnds hi _ => simp [hi]
  | timer rest hi _ => simp [hi]
  | reset rest hi => simp [hi]
  | badFrame f rest e hi _ => simp [hi]
  | command f rest i _ hi _ hx => simp [hx.inputs_eq, hi]

/-- In RECOVER every well-formed command is refused with SEQ (rule R215). -/
theorem exec_of_recover {i : Instr} {s : State} (hi : i.wellFormed = true) (hp : s.phase = .recover) :
    exec i s = .next (s.refuse .seq) := by
  cases i with
  | ldkey data => exact exec_ldkey_of_ne_idle ⟨data, wellFormed_ldkey.1 hi⟩ (by simp [hp])
  | ldwin data => exact exec_ldwin_of_recover ⟨data, wellFormed_ldwin.1 hi⟩ hp
  | split => exact exec_split_of_ne_loaded (by simp [hp])
  | decrypt => exact exec_decrypt_of_ne_envelope (by simp [hp])
  | clr => exact exec_clr_of_recover hp

/-- Every command ends in a next state of the same kind. -/
theorem InvOutsideRecover.exec_next {s : State} (h : InvOutsideRecover s) (i : Instr) :
    ∃ t, exec i s = .next t ∧ InvOutsideRecover t := by
  cases hi : i.wellFormed with
  | false => exact ⟨_, exec_of_not_wellFormed s hi, h.refuse _⟩
  | true =>
    by_cases hp : s.phase = .recover
    · exact ⟨_, exec_of_recover hi hp, h.refuse _⟩
    · obtain ⟨t, hx, -⟩ := (h hp).exec_followsTable hi
      exact ⟨t, hx, fun _ => (h hp).of_execEffect (exec_effect hx)⟩

/-- A frame, whatever it holds, ends in such a state too. -/
theorem InvOutsideRecover.frameStep_next {s : State} (h : InvOutsideRecover s) (f : Bytes) :
    ∃ t, frameStep f s = .next t ∧ InvOutsideRecover t := by
  cases hd : decode f with
  | ok i =>
    rw [frameStep_of_decode_ok s hd]
    exact h.exec_next i
  | error e => exact ⟨_, frameStep_of_decode_error s hd, h.refuse _⟩

/-- Loading a window asks nothing of the state before it. -/
theorem exec_ldwin_next (s : State) (w : FixedBytes Config.windowLen) :
    ∃ t, exec (.ldwin w.bytes) s = .next t ∧ InvOutsideRecover t := by
  by_cases hp : s.phase = .recover
  · exact ⟨_, exec_ldwin_of_recover w hp, fun hne => absurd hp hne⟩
  · exact ⟨_, exec_ldwin_of_ne_recover w hp, fun _ => (stateInv_beginCycle s w).accept⟩

/-- A run whose first step has a next state is the run from there. -/
theorem run_succ_of_step {s t : State} (h : step s = .next t) (k : Nat) :
    Host.Core.run core (k + 1) s = Host.Core.run core k t := by
  have hcore : core.step s = .next t := h
  simp only [Host.Core.run, hcore]

/-- The same frames, presented to two states that differ in unexamined bytes of the held window only, lead to two such
states. -/
theorem SameButUnexamined.run_frames {s s' : State} {fs : List Bytes} {rest : List Input} {k : Nat}
    (h : SameButUnexamined s s') (hinv : InvOutsideRecover s) (hi : s.inputs = fs.map .frame ++ rest)
    (hi' : s'.inputs = s.inputs) (hk : k ≤ fs.length) :
    ∃ t t', Host.Core.run core k s = .next t ∧ Host.Core.run core k s' = .next t' ∧ SameButUnexamined t t' ∧
      t'.inputs = t.inputs := by
  induction k generalizing s s' fs with
  | zero => exact ⟨s, s', rfl, rfl, h, hi'⟩
  | succ k ih =>
    cases fs with
    | nil => simp at hk
    | cons f fs =>
      obtain ⟨t, hx, ht⟩ := (hinv.withInputs (fs.map .frame ++ rest)).frameStep_next f
      have hs : step s = .next t := (step_frame hi).trans hx
      obtain ⟨t', hs', htt⟩ := (hs ▸ h.sameOutcome_step hinv).exists_next
      have hti : t.inputs = s.inputs.tail := (step_effect hs).inputs_eq
      have hti' : t'.inputs = s'.inputs.tail := (step_effect hs').inputs_eq
      rw [run_succ_of_step hs, run_succ_of_step hs']
      exact ih htt ht (by rw [hti, hi]; rfl) (by rw [hti, hti', hi']) (by simpa using hk)

/-- Settles O37: the two loads lead to states that differ in unexamined bytes of the window only, and `SPLIT` and
`DECRYPT` keep them so. -/
theorem unexaminedBytesInfluenceNothing : Obligations.UnexaminedBytesInfluenceNothing := by
  intro s w w' rest k hw hlo hhi
  obtain ⟨k, rfl⟩ := Nat.exists_eq_add_of_le' hlo
  have hload (w : FixedBytes Config.windowLen) :
      step { s with inputs := cycleInputs w ++ rest } =
        exec (.ldwin w.bytes) { s with inputs := [encode .split, encode .decrypt].map .frame ++ rest } :=
    step_of_decode_ok rfl (decode_encode_of_wellFormed (wellFormed_ldwin.2 w.size))
  obtain ⟨t, hx, hinv⟩ := exec_ldwin_next { s with inputs := [encode .split, encode .decrypt].map .frame ++ rest } w
  obtain ⟨t', hx', htt⟩ := (hx ▸ (SameButUnexamined.refl _).sameOutcome_ldwin hw).exists_next
  have hti := (exec_effect hx).inputs_eq
  have hti' := (exec_effect hx').inputs_eq
  rw [run_succ_of_step ((hload w).trans hx), run_succ_of_step ((hload w').trans hx')]
  obtain ⟨u, u', hu, hu', huu, hinputs⟩ :=
    htt.run_frames (k := k) hinv hti (hti'.trans hti.symm) (by simp; omega)
  exact ⟨u, u', hu, hu', by rw [huu.1, hinputs]⟩

end Machine
end Sys2Proof

namespace Sys2Proof

/-! ## The assembler's lines (rule R84) -/

theorem hexValue_isSome_of_mem_hexText {x : Bytes} {c : Char} (h : c ∈ hexText x) : (hexValue c).isSome = true := by
  induction x with
  | nil => cases h
  | cons b rest ih =>
    have isSome_hexDigit {n : Nat} (hn : n < 16) : (hexValue (hexDigit n)).isSome = true := by
      rw [hexValue_hexDigit hn, Option.isSome_some]
    simp only [hexText, List.mem_cons] at h
    obtain rfl | rfl | h := h
    · exact isSome_hexDigit (by omega)
    · exact isSome_hexDigit (by omega)
    · exact ih h

theorem hexText_eq_nil {x : Bytes} : hexText x = [] ↔ x = [] := by
  cases x <;> simp [hexText]

namespace Machine

/-- A character that neither ends a word nor begins a comment (rule R84). -/
def WordChar (c : Char) : Prop := c ≠ ';' ∧ c ≠ ' ' ∧ c ≠ '\t' ∧ c ≠ '\n' ∧ c ≠ '\r'

/-- A word of a listing. -/
def IsWord (t : List Char) : Prop := t ≠ [] ∧ ∀ c ∈ t, WordChar c

theorem wordChar_of_hexValue {c : Char} (h : (hexValue c).isSome = true) : WordChar c := by
  refine ⟨?_, ?_, ?_, ?_, ?_⟩ <;>
    · rintro rfl
      exact absurd h (by decide)

/-- The hex text of an operand is a word. -/
theorem isWord_hexText {x : Bytes} (hx : x ≠ []) : IsWord (hexText x) :=
  ⟨mt hexText_eq_nil.1 hx, fun _ hc => wordChar_of_hexValue (hexValue_isSome_of_mem_hexText hc)⟩

theorem withoutComments_of_not_mem {t : List Char} (h : ';' ∉ t) : withoutComments false t = t := by
  induction t with
  | nil => rfl
  | cons c rest ih =>
    obtain ⟨hc, hrest⟩ : ';' ≠ c ∧ ';' ∉ rest := by simpa using h
    simp [withoutComments, hc.symm, ih hrest]

/-- Reading the characters of a word adds them to the word being read. -/
theorem splitWords_append {t : List Char} (h : ∀ c ∈ t, WordChar c) (word rest : List Char) :
    splitWords word (t ++ rest) = splitWords (t.reverse ++ word) rest := by
  induction t generalizing word with
  | nil => rfl
  | cons c t ih =>
    obtain ⟨-, hspace, htab, hnl, hcr⟩ := h c (by simp)
    simp [splitWords, hspace, htab, hnl, hcr, ih fun d hd => h d (by simp [hd])]

theorem splitWords_word {t : List Char} (h : IsWord t) : splitWords [] t = [t] := by
  have := splitWords_append h.2 [] []
  simpa [splitWords, h.1] using this

theorem splitWords_two_words {t u : List Char} (ht : IsWord t) (hu : IsWord u) :
    splitWords [] (t ++ ' ' :: u) = [t, u] := by
  rw [splitWords_append ht.2]
  simp [splitWords, ht.1, splitWords_word hu]

/-- No word that begins an item consists of hex digits: `L`, `S`, `R`, `T` and `Y` are none. -/
theorem asmWordOf_hexText (x : Bytes) : asmWordOf (hexText x) = none := by
  have ne_of_mem {t : List Char} (c : Char) (hc : c ∈ t) (hv : hexValue c = none) : hexText x ≠ t := by
    rintro rfl
    simpa [hv] using hexValue_isSome_of_mem_hexText hc
  unfold asmWordOf
  rw [if_neg (ne_of_mem 'L' (by decide) (by decide)), if_neg (ne_of_mem 'L' (by decide) (by decide)),
    if_neg (ne_of_mem 'S' (by decide) (by decide)), if_neg (ne_of_mem 'R' (by decide) (by decide)),
    if_neg (ne_of_mem 'L' (by decide) (by decide)), if_neg (ne_of_mem 'T' (by decide) (by decide)),
    if_neg (ne_of_mem 'R' (by decide) (by decide)), if_neg (ne_of_mem 'Y' (by decide) (by decide))]

/-- An operand in hex is no `@name`. -/
theorem asmBytes_hexText (names : WindowNames) (x : Bytes) : asmBytes names [hexText x] = some x := by
  have hname (name : List Char) : hexText x ≠ '@' :: name := by
    intro h
    have hat : '@' ∈ hexText x := by simp [h]
    exact absurd (hexValue_isSome_of_mem_hexText hat) (by decide)
  unfold asmBytes
  split
  · rename_i name heq
    exact absurd (List.cons.inj heq).1 (hname name)
  · simp

/-- A listing of one word that begins an item. -/
theorem assemble_word (names : WindowNames) {t : List Char} {k : AsmWord} (ht : IsWord t) (hk : asmWordOf t = some k) :
    assemble names t = [(k, [])].mapM (asmItemOf names) := by
  have hsemi : ';' ∉ t := fun h => (ht.2 _ h).1 rfl
  simp only [assemble, withoutComments_of_not_mem hsemi, splitWords_word ht, groupWords, hk]

/-- A listing of one word that begins an item, a space and an operand in hex. -/
theorem assemble_word_hexText (names : WindowNames) {t : List Char} {k : AsmWord} {x : Bytes} (ht : IsWord t)
    (hk : asmWordOf t = some k) (hx : x ≠ []) :
    assemble names (t ++ ' ' :: hexText x) = [(k, [hexText x])].mapM (asmItemOf names) := by
  have hu := isWord_hexText hx
  have hsemi : ';' ∉ t ++ ' ' :: hexText x := by
    have hst : ';' ∉ t := fun h => (ht.2 _ h).1 rfl
    have hsu : ';' ∉ hexText x := fun h => (hu.2 _ h).1 rfl
    simp [hst, hsu]
  simp only [assemble, withoutComments_of_not_mem hsemi, splitWords_two_words ht hu, groupWords, hk, asmWordOf_hexText]

theorem asmItemOf_ldkey_hexText (names : WindowNames) {data : Bytes} (h : data.length = Config.keyLen) :
    asmItemOf names (.ldkey, [hexText data]) = some (.command (.ldkey data)) := by
  unfold asmItemOf
  simp [h]

theorem asmItemOf_ldwin_hexText (names : WindowNames) {data : Bytes} (h : data.length = Config.windowLen) :
    asmItemOf names (.ldwin, [hexText data]) = some (.command (.ldwin data)) := by
  unfold asmItemOf
  simp [asmBytes_hexText, h]

/-- Settles O10: the line is the mnemonic and the operand's hex text, which are read back word by word. -/
theorem assembleReadsRenderedCommand : Obligations.AssembleReadsRenderedCommand := by
  intro i hi
  cases i with
  | ldkey data =>
    have hlen := wellFormed_ldkey.1 hi
    have hne : data ≠ [] := by rintro rfl; cases hlen
    have hline : renderInstr (.ldkey data) = "LDKEY".toList ++ ' ' :: hexText data := rfl
    rw [hline, assemble_word_hexText [] (k := .ldkey) (by simp [IsWord, WordChar]) rfl hne]
    simp [asmItemOf_ldkey_hexText, hlen]
  | ldwin data =>
    have hlen := wellFormed_ldwin.1 hi
    have hne : data ≠ [] := by rintro rfl; cases hlen
    have hline : renderInstr (.ldwin data) = "LDWIN".toList ++ ' ' :: hexText data := rfl
    rw [hline, assemble_word_hexText [] (k := .ldwin) (by simp [IsWord, WordChar]) rfl hne]
    simp [asmItemOf_ldwin_hexText, hlen]
  | split => exact assemble_word [] (t := "SPLIT".toList) (k := .split) (by simp [IsWord, WordChar]) rfl
  | decrypt => exact assemble_word [] (t := "DECRYPT".toList) (k := .decrypt) (by simp [IsWord, WordChar]) rfl
  | clr => exact assemble_word [] (t := "CLR".toList) (k := .clr) (by simp [IsWord, WordChar]) rfl

end Machine
end Sys2Proof

namespace Sys2Proof

/-! ## What a frame decodes to (rule R72) -/

theorem wellFormed_instr {o : Opcode} {data : Bytes} (h : data.length = o.operandLen) :
    (o.instr data).wellFormed = true := by
  cases o with
  | ldkey => exact wellFormed_ldkey.2 h
  | ldwin => exact wellFormed_ldwin.2 h
  | split | decrypt | clr => rfl

/-- A frame decodes to a command only after its length has been checked. -/
theorem wellFormed_of_decode {f : Bytes} {i : Instr} (h : decode f = .ok i) : i.wellFormed = true := by
  unfold decode at h
  split at h
  · cases h
  · split at h
    · cases h
    · split at h
      next hlen =>
        cases h
        exact wellFormed_instr hlen
      next => cases h

end Sys2Proof

namespace Sys2Proof.Machine

/-! ## The recovery pause (rules R106, R215) -/

/-- In RECOVER every frame is refused, one that is no command as its decoding says and a command with SEQ. -/
theorem frameStep_of_recover {s : State} (f : Bytes) (hp : s.phase = .recover) :
    ∃ c : RefuseCause, c ≠ .nokey ∧ frameStep f s = .next (s.refuse c) := by
  cases hd : decode f with
  | error e => exact ⟨_, by cases e <;> simp [decodeRefusal], frameStep_of_decode_error s hd⟩
  | ok i =>
    have hx : exec i s = .next (s.refuse .seq) := exec_of_recover (wellFormed_of_decode hd) hp
    exact ⟨.seq, by simp, (frameStep_of_decode_ok s hd).trans hx⟩

theorem quietStep_of_recover {s : State} (hp : s.phase = .recover) : quietStep s = .next s.endPause := by
  simp [quietStep, hp, timerExpiry_of_recover]

/-- Settles O34, by induction on the inputs: a frame is refused and leaves a shorter list, a timer or a reset ends the
pause, and so does the live timer when no input is left. -/
theorem recoveryPauseEnds : Obligations.RecoveryPauseEnds := by
  intro s hp
  induction hi : s.inputs generalizing s with
  | nil =>
    have hs : step s = .next s.endPause := (step_quiet hi).trans (quietStep_of_recover hp)
    exact ⟨1, _, by simp, run_succ_of_step hs 0, rfl, .inl ⟨rfl, rfl, rfl⟩⟩
  | cons e rest ih =>
    cases e with
    | frame f =>
      obtain ⟨c, -, hx⟩ := frameStep_of_recover (s := { s with inputs := rest }) f hp
      obtain ⟨k, t, hk, hr, hend⟩ := ih ({ s with inputs := rest }.refuse c) hp rfl
      exact ⟨k + 1, t, by simpa using hk, (run_succ_of_step ((step_frame hi).trans hx) k).trans hr, hend⟩
    | timer =>
      have hs : step s = .next { s with inputs := rest }.endPause := (step_timer hi).trans (timerExpiry_of_recover hp)
      exact ⟨1, _, by simp, run_succ_of_step hs 0, rfl, .inl ⟨rfl, rfl, rfl⟩⟩
    | reset => exact ⟨1, _, by simp, run_succ_of_step (step_reset hi) 0, rfl, .inr ⟨rfl, rfl, rfl⟩⟩

/-! ## The host operations `LDKEY`, `LDWIN` and `CLR` (rules R100, R102, R104) -/

/-- Settles O11: the frame by its row of the table, the effect by the phase. -/
theorem ldkeyLoadsKeyInIdle : Obligations.LdkeyLoadsKeyInIdle :=
  fun k _ => ⟨rfl, (Laws.FrameLength.ldkey k.bytes (wellFormed_ldkey.2 k.size)).1,
    fun _ hlen => decode_of_length_ne (o := .ldkey) hlen, exec_ldkey_of_idle k, exec_ldkey_of_ne_idle k⟩

/-- Settles O12: the frame by its row of the table, the effect by the phase. -/
theorem ldwinBeginsCycle : Obligations.LdwinBeginsCycle :=
  fun w _ => ⟨rfl, (Laws.FrameLength.ldwin w.bytes (wellFormed_ldwin.2 w.size)).1,
    fun _ hlen => decode_of_length_ne (o := .ldwin) hlen, exec_ldwin_of_ne_recover w, exec_ldwin_of_recover w⟩

/-- Settles O13: the frame is the operation's byte alone, and the effect goes by the phase. -/
theorem clrAbandonsCycle : Obligations.ClrAbandonsCycle :=
  fun _ => ⟨rfl, exec_clr_of_ne_recover, exec_clr_of_recover⟩

/-- An accepted `LDWIN` overwrites every field but the key, `OUT` and the inputs. -/
theorem beginCycle_accept_congr {s s' : State} (w : FixedBytes Config.windowLen) (hkey : s.key = s'.key)
    (hout : s.out = s'.out) (hinputs : s.inputs = s'.inputs) : (s.beginCycle w).accept = (s'.beginCycle w).accept := by
  simp only [State.accept, State.beginCycle, State.endCycle, hkey, hout, hinputs]

/-- Settles O38: both loads are accepted, and what they leave of the states before is the same. -/
theorem ldwinForgetsPreviousCycle : Obligations.LdwinForgetsPreviousCycle := by
  intro w s s' hp hp' hkey hout hinputs
  rw [exec_ldwin_of_ne_recover w hp, exec_ldwin_of_ne_recover w hp', beginCycle_accept_congr w hkey hout hinputs]

end Sys2Proof.Machine

namespace Sys2Proof.Machine

/-! ## `SPLIT` (rules R120 to R125, R129) -/

theorem window_getElem? (w : FixedBytes Config.windowLen) (i : Nat) (hi : i < Config.windowLen) :
    w.bytes[i]? = some (windowByte w i hi) :=
  w.get_eq ⟨i, hi⟩

/-- The declared length is byte 1 of the window (rule R122). -/
theorem envelopeOf_frameLen (w : FixedBytes Config.windowLen) : w.bytes[1]? = some (envelopeOf w).frameLen :=
  window_getElem? w offLen0 (by decide)

/-- `CT_LEN` as the span's end sees it: `6 + frame_len - 26` where that is positive, and else 0, and
at most 235 (rule R124). -/
theorem envelopeOf_ctLen_eq (w : FixedBytes Config.windowLen) :
    (envelopeOf w).ctLen.toNat =
        (if 6 + (envelopeOf w).frameLen.toNat > 26 then 6 + (envelopeOf w).frameLen.toNat - 26 else 0) ∧
      (envelopeOf w).ctLen.toNat = max 0 (((envelopeOf w).frameLen.toNat : Int) - 20) ∧
      (envelopeOf w).ctLen.toNat ≤ 235 := by
  have hct : (envelopeOf w).ctLen.toNat = (envelopeOf w).frameLen.toNat - 20 := envelopeOf_ctLen_toNat w
  have hlen := (envelopeOf w).frameLen.isLt
  refine ⟨?_, by omega, by omega⟩
  split <;> omega

/-- Settles O15: the envelope is the window's own, field by field. -/
theorem splitExtractsEnvelope : Obligations.SplitExtractsEnvelope :=
  fun _ w hp hw hv => ⟨envelopeOf w, exec_split_of_valid hp hw hv, rfl, envelopeOf_frameLen w,
    envelopeOf_mbusStart_of_valid hv, rfl, rfl, envelopeOf_ctLen_eq w⟩

/-- The one state that `LDWIN w; SPLIT` can lead to: the loaded window alone decides between the two effects. -/
theorem eq_of_exec_ldwin_split {w : FixedBytes Config.windowLen} {s t u : State} (hp : s.phase ≠ .recover)
    (ht : exec (.ldwin w.bytes) s = .next t) (hu : exec .split t = .next u) :
    u = if validWindow w then (s.beginCycle w).accept.accept.storeEnvelope (envelopeOf w)
      else (s.beginCycle w).accept.accept.raise .frameInvalid := by
  obtain rfl := Host.Outcome.next.inj ((exec_ldwin_of_ne_recover w hp).symm.trans ht)
  split
  · exact Host.Outcome.next.inj (hu.symm.trans (exec_split_of_valid rfl rfl ‹_›))
  · exact Host.Outcome.next.inj (hu.symm.trans (exec_split_of_invalid rfl rfl (Bool.eq_false_iff.2 ‹_›)))

/-- Settles O18: both runs take the window's branch, and what either branch writes comes from the window. -/
theorem splitDependsOnWindowOnly : Obligations.SplitDependsOnWindowOnly := by
  intro w s s' t t' u u' hp hp' ht ht' hu hu'
  rw [eq_of_exec_ldwin_split hp ht hu, eq_of_exec_ldwin_split hp' ht' hu']
  split <;> simp

/-- Settles O14: each comparison is of bytes that the window has. -/
theorem windowValidityIsThreeComparisons : Obligations.WindowValidityIsThreeComparisons := by
  intro w
  rw [window_getElem? w 0 (by decide), window_getElem? w 1 (by decide), window_getElem? w 2 (by decide),
    window_getElem? w 3 (by decide)]
  simp [validWindow, startByte, and_assoc]

/-- Settles O16: the error ends the cycle, and its class and phase are those of `FrameInvalid`. -/
theorem splitRaisesFrameInvalid : Obligations.SplitRaisesFrameInvalid :=
  fun _ _ => exec_split_of_invalid

/-- No `SPLIT` that answers leaves the block in LOADED: it stores an envelope, raises, or was not there (rule R129). -/
theorem phase_ne_loaded_of_exec_split {s t : State} (h : exec .split s = .next t) : t.phase ≠ .loaded := by
  obtain ⟨hp, rfl⟩ | ⟨w, -, -, ⟨-, rfl⟩ | ⟨-, rfl⟩⟩ := execSplit_cases h
  · exact hp
  · simp
  · simp [CycleError.nextPhase]

/-- Settles O17: a second `SPLIT` is one outside LOADED. -/
theorem splitRefusedOutsideLoaded : Obligations.SplitRefusedOutsideLoaded :=
  ⟨fun _ => exec_split_of_ne_loaded, fun _ _ _ h => exec_split_of_ne_loaded (phase_ne_loaded_of_exec_split h)⟩

end Sys2Proof.Machine

namespace Sys2Proof.Machine

/-! ## `DECRYPT` (rules R140 to R149) -/

/-- The sixteen bytes of `J0` fix it (rules R81, R144). -/
theorem eq_preCounter_of_bytes {title : FixedBytes Config.titleLen} {ctr : FixedBytes Config.ctrLen} {j0 : Block}
    (h : j0.bytes = title.bytes ++ ctr.bytes ++ [0x00#8, 0x00#8, 0x00#8, 0x01#8]) :
    j0 = preCounter (nonceOf title ctr) :=
  FixedBytes.eq_of_bytes h

/-- `GETRESP` with the two bytes of `APDU_TAG` written out (rule R27). -/
theorem getrespOf_eq_decide (p : Bytes) :
    getrespOf p = decide (2 ≤ p.length ∧ p[0]? = some 0x0F#8 ∧ p[1]? = some 0x80#8) := by
  rw [Bool.eq_iff_iff]
  simp [getrespOf, apduTag0, apduTag1, and_assoc]

/-- A span shorter than a tag is malformed, whatever its bytes are (rule R142). -/
theorem decryptCycle_of_short {tl : Config.TagLen} {span : Bytes} (a : Config.Aad) (k : FixedBytes Config.keyLen)
    (title : FixedBytes Config.titleLen) (ctr : FixedBytes Config.ctrLen) (s : State) (h : span.length < tl.len) :
    decryptCycle tl a k title ctr span s = s.accept.raise (.decryptError .len) := by
  simp [decryptCycle, authDecrypt, h]

/-- A span that holds a tag is never malformed: its APDU is released, or its tag is wrong (rule R142). -/
theorem decryptCycle_of_long {tl : Config.TagLen} {span : Bytes} (a : Config.Aad) (k : FixedBytes Config.keyLen)
    (title : FixedBytes Config.titleLen) (ctr : FixedBytes Config.ctrLen) (s : State) (h : tl.len ≤ span.length) :
    (decryptCycle tl a k title ctr span s).phase = .done ∨
      (decryptCycle tl a k title ctr span s).err = .decryptTag := by
  obtain ⟨hlt, -⟩ | ⟨-, -, he⟩ | ⟨-, -, he⟩ := decryptCycle_cases tl a k title ctr span s
  · omega
  · exact .inr (by rw [he]; rfl)
  · exact .inl (by rw [he]; rfl)

/-- Of a span `C ‖ T` the tag alone decides between the plaintext of `C` and the error (rules R143, R146). -/
theorem decryptCycle_append {tl : Config.TagLen} {tag : Bytes} (a : Config.Aad) (k : FixedBytes Config.keyLen)
    (title : FixedBytes Config.titleLen) (ctr : FixedBytes Config.ctrLen) (c : Bytes) (s : State)
    (h : tag.length = tl.len) :
    decryptCycle tl a k title ctr (c ++ tag) s =
      if tag = expectedTag k (nonceOf title ctr) a.bytes c tl.len then
        s.accept.releaseApdu (gcmStream k (nonceOf title ctr) c)
      else s.accept.raise (.decryptError .tag) := by
  have hcut : (c ++ tag).length - tl.len = c.length := by simp [h]
  have hc : (c ++ tag).take c.length = c := List.take_left
  have ht : (c ++ tag).drop c.length = tag := List.drop_left
  obtain ⟨hlt, -⟩ | ⟨-, hne, he⟩ | ⟨-, heq, he⟩ := decryptCycle_cases tl a k title ctr (c ++ tag) s
  · simp [h] at hlt
  · rw [hcut, hc, ht] at hne
    rw [he, if_neg hne.symm]
  · rw [hcut, hc, ht] at heq
    rw [he, hcut, hc, if_pos heq.symm]

/-- Settles O19: `J0` is the nonce's, so the tag is the expected one; the lengths are those of the span's two parts. -/
theorem decryptReleasesApdu : Obligations.DecryptReleasesApdu := by
  rintro s k w n title ctr j0 c tag p hp hk hw hn ht hc hj0 hspan hlen htag rfl
  obtain rfl := eq_preCounter_of_bytes hj0
  replace hspan : spanOf w n = c ++ tag := hspan
  replace htag : tag = expectedTag k (nonceOf title ctr) Config.aad.bytes c Config.tagLen.len := htag
  have hsum : c.length + tag.length = n.toNat := by rw [← List.length_append, ← hspan, spanOf_length]
  have hplen : (gctr k (inc32 (preCounter (nonceOf title ctr))) c).length = c.length := gctr_length ..
  refine ⟨?_, by omega, by rw [BitVec.toNat_ofNat, Nat.mod_eq_of_lt (by omega)]⟩
  rw [exec_decrypt_of_key hp hk hw hn ht hc, hspan, decryptCycle_append _ _ _ _ _ _ hlen, if_pos htag,
    ← getrespOf_eq_decide]
  rfl

/-- Settles O20: the span has `CT_LEN` bytes, and the comparison of its length with `TAG_LEN` is the only one. -/
theorem decryptRejectsShortSpan : Obligations.DecryptRejectsShortSpan := by
  intro s k w n title ctr hp hk hw hn ht hc
  rw [exec_decrypt_of_key hp hk hw hn ht hc, ← spanOf_length w n]
  exact ⟨fun hlt => congrArg _ (decryptCycle_of_short _ k title ctr s hlt),
    fun hle => ⟨_, rfl, decryptCycle_of_long _ k title ctr s hle⟩⟩

/-- Settles O21: `J0` is the nonce's, so the tag is not the expected one. -/
theorem decryptRejectsWrongTag : Obligations.DecryptRejectsWrongTag := by
  intro s k w n title ctr j0 c tag hp hk hw hn ht hc hj0 hspan hlen htag
  obtain rfl := eq_preCounter_of_bytes hj0
  replace hspan : spanOf w n = c ++ tag := hspan
  replace htag : tag ≠ expectedTag k (nonceOf title ctr) Config.aad.bytes c Config.tagLen.len := htag
  rw [exec_decrypt_of_key hp hk hw hn ht hc, hspan, decryptCycle_append _ _ _ _ _ _ hlen, if_neg htag]
  rfl

/-- Settles O22: the phase is tested before the key. -/
theorem decryptRefusals : Obligations.DecryptRefusals :=
  ⟨fun _ => exec_decrypt_of_ne_envelope, fun _ => exec_decrypt_of_no_key⟩

end Sys2Proof.Machine

namespace Sys2Proof

/-! ## Fixed-length strings, byte for byte -/

@[simp] theorem FixedBytes.get_xor {n : Nat} (a b : FixedBytes n) (i : Fin n) :
    (a.xor b).get i = a.get i ^^^ b.get i := by
  apply Option.some.inj
  rw [← FixedBytes.get_eq, FixedBytes.xor_bytes, List.getElem?_zipWith, a.get_eq, b.get_eq]

end Sys2Proof

namespace Sys2Proof.Machine

/-! ## The cipher's state and its round transformations (rules R171, R173 to R175) -/

theorem getElem?_eq_cell (s : Block) {r c : Nat} (hr : r < 4) (hc : c < 4) :
    s.bytes[r + 4 * c]? = some (cell s r c) := by
  have hmod : (r + 4 * c) % 16 = r + 4 * c := by omega
  simp [cell, ← FixedBytes.get_eq, hmod]

theorem cell_ofCells (f : Nat → Nat → Byte) {r c : Nat} (hr : r < 4) (hc : c < 4) :
    cell (ofCells f) r c = f r c := by
  have hrow : (r + 4 * c) % 16 % 4 = r := by omega
  have hcol : (r + 4 * c) % 16 / 4 = c := by omega
  rw [cell, ofCells, FixedBytes.get_ofFn, hrow, hcol]

theorem cell_xor (s t : Block) (r c : Nat) : cell (s.xor t) r c = cell s r c ^^^ cell t r c :=
  FixedBytes.get_xor ..

theorem cell_subBytes (s : Block) {r c : Nat} (hr : r < 4) (hc : c < 4) : cell (subBytes s) r c = sbox (cell s r c) :=
  cell_ofCells _ hr hc

theorem cell_shiftRows (s : Block) {r c : Nat} (hr : r < 4) (hc : c < 4) :
    cell (shiftRows s) r c = cell s r ((c + r) % 4) :=
  cell_ofCells _ hr hc

theorem cell_mixColumns (s : Block) {r c : Nat} (hr : r < 4) (hc : c < 4) :
    cell (mixColumns s) r c = mixTerm r 0 (cell s 0 c) ^^^ mixTerm r 1 (cell s 1 c) ^^^ mixTerm r 2 (cell s 2 c) ^^^
      mixTerm r 3 (cell s 3 c) :=
  cell_ofCells _ hr hc

/-- Settles O44: each transformation is given cell by cell, and the rows of the matrix are those of `mixTerm`. -/
theorem roundTransformationsByCell : Obligations.RoundTransformationsByCell := fun s _ _ hr hc =>
  ⟨getElem?_eq_cell s hr hc, cell_subBytes s hr hc, cell_shiftRows s hr hc, cell_mixColumns s (by decide) hc,
    cell_mixColumns s (by decide) hc, cell_mixColumns s (by decide) hc, cell_mixColumns s (by decide) hc⟩

/-! ## The key schedule (rules R176, R177, R179) -/

/-- A list of words, `w[0]` first, that begins with the key's bytes and in which each later word is made from the
words one and four places before it. -/
structure IsKeySchedule (k : Block) (ws : List KeyWord) : Prop where
  key_words : [k.slice 0 4, k.slice 4 4, k.slice 8 4, k.slice 12 4] <+: ws
  next_word : ∀ i w, 4 ≤ i → ws[i]? = some w →
    ∃ prev old, ws[i - 1]? = some prev ∧ ws[i - 4]? = some old ∧ w = nextKeyWord i prev old

theorem isKeySchedule_keyWords (k : Block) : IsKeySchedule k [k.slice 0 4, k.slice 4 4, k.slice 8 4, k.slice 12 4] where
  key_words := ⟨[], List.append_nil _⟩
  next_word i w hi hw := by
    have hlt : i < 4 := (List.getElem?_eq_some_iff.1 hw).1
    omega

theorem IsKeySchedule.append {k : Block} {ws : List KeyWord} (h : IsKeySchedule k ws) {prev old : KeyWord}
    (hprev : ws[ws.length - 1]? = some prev) (hold : ws[ws.length - 4]? = some old) :
    IsKeySchedule k (ws ++ [nextKeyWord ws.length prev old]) where
  key_words := h.key_words.trans ⟨_, rfl⟩
  next_word i w hi hw := by
    have hkeep {j : Nat} {v : KeyWord} (hj : ws[j]? = some v) (x : List KeyWord) : (ws ++ x)[j]? = some v := by
      rw [List.getElem?_append_left (List.getElem?_eq_some_iff.1 hj).1, hj]
    obtain hlt | rfl | hgt := lt_trichotomy i ws.length
    · rw [List.getElem?_append_left hlt] at hw
      obtain ⟨prev', old', hp, ho, rfl⟩ := h.next_word i w hi hw
      exact ⟨prev', old', hkeep hp _, hkeep ho _, rfl⟩
    · exact ⟨prev, old, hkeep hprev _, hkeep hold _, by simpa using hw.symm⟩
    · rw [List.getElem?_eq_none (by simpa using hgt)] at hw
      cases hw

theorem expandKeyWords_length (n i : Nat) (ws : List KeyWord) : (expandKeyWords n i ws).length = n + ws.length := by
  induction n generalizing i ws with
  | zero => simp [expandKeyWords]
  | succ n ih => rw [expandKeyWords, ih, List.length_cons]; omega

/-- The model keeps the newest word first. -/
theorem IsKeySchedule.expand {k : Block} (n : Nat) {ws : List KeyWord} (h : IsKeySchedule k ws.reverse) :
    IsKeySchedule k (expandKeyWords n ws.length ws).reverse := by
  induction n generalizing ws with
  | zero => exact h
  | succ n ih =>
    have hlen : 4 ≤ ws.length := by simpa using h.key_words.length_le
    have hword {j : Nat} (hj : j < 4) : ws.reverse[ws.reverse.length - (j + 1)]? = some (ws.getD j (.zero 4)) := by
      have hindex : ws.length - 1 - (ws.length - (j + 1)) = j := by omega
      have hin : j < ws.length := by omega
      rw [List.length_reverse, List.getElem?_reverse (by omega), hindex]
      simp [hin]
    rw [expandKeyWords, ← List.length_cons (a := nextKeyWord _ _ _)]
    apply ih
    simpa using h.append (hword (j := 0) (by decide)) (hword (j := 3) (by decide))

theorem keyExpansion_isKeySchedule (k : Block) : IsKeySchedule k (keyExpansion k) :=
  (isKeySchedule_keyWords k).expand 40

@[simp] theorem keyExpansion_length (k : Block) : (keyExpansion k).length = 44 := by
  simp [keyExpansion, expandKeyWords_length]

theorem keyExpansion_getElem?_of_lt_four (k : Block) {i : Nat} (hi : i < 4) :
    ∃ w, (keyExpansion k)[i]? = some w ∧ w.bytes = (k.bytes.drop (4 * i)).take 4 := by
  obtain ⟨ws, hws⟩ := (keyExpansion_isKeySchedule k).key_words
  rw [← hws]
  match i, hi with
  | 0, _ | 1, _ | 2, _ | 3, _ => exact ⟨_, rfl, rfl⟩

theorem nextKeyWord_of_mod_ne_zero {i : Nat} (h : i % 4 ≠ 0) (prev old : KeyWord) :
    nextKeyWord i prev old = old.xor prev := by
  rw [nextKeyWord, if_neg h]

theorem nextKeyWord_of_mod_eq_zero {i : Nat} (h : i % 4 = 0) (prev old : KeyWord) :
    nextKeyWord i prev old = old.xor (scheduleCore (i / 4) prev) := by
  rw [nextKeyWord, if_pos h]

/-- The rotated and substituted word, with the round constant in its byte 0. -/
theorem scheduleCore_bytes (j : Nat) (t : KeyWord) :
    (scheduleCore j t).bytes =
      [sbox (t.get 1) ^^^ rcon j, sbox (t.get 2), sbox (t.get 3), sbox (t.get 0)] := by
  simp [scheduleCore, List.ofFn_succ]

/-- In words laid one after another, byte `r` of word `c` stands at `r + 4c`. -/
theorem flatMap_bytes_getElem? (ws : List KeyWord) (r : Fin 4) (c : Nat) :
    (ws.flatMap FixedBytes.bytes)[r.val + 4 * c]? = ws[c]?.map (·.get r) := by
  induction ws generalizing c with
  | nil => rfl
  | cons w ws ih =>
    cases c with
    | zero => simp [List.getElem?_append_left, w.size, ← w.get_eq r]
    | succ c =>
      rw [List.flatMap_cons, List.getElem?_append_right (by rw [w.size]; omega), List.getElem?_cons_succ, ← ih,
        w.size]
      rfl

theorem flatMap_bytes_length (ws : List KeyWord) : (ws.flatMap FixedBytes.bytes).length = 4 * ws.length := by
  induction ws with
  | nil => rfl
  | cons w ws ih => rw [List.flatMap_cons, List.length_append, w.size, ih, List.length_cons]; omega

/-- Column `c` of round key `j` is word `w[4j + c]` (rule R177). -/
theorem cell_roundKey {ws : List KeyWord} {j c : Nat} {w : KeyWord} (r : Fin 4) (hc : c < 4)
    (hlen : 4 * j + 4 ≤ ws.length) (hw : ws[4 * j + c]? = some w) : cell (roundKey ws j) r c = w.get r := by
  have hfour : ((ws.drop (4 * j)).take 4).length = 4 := by simp; omega
  have hbytes : (roundKey ws j).bytes = ((ws.drop (4 * j)).take 4).flatMap FixedBytes.bytes :=
    FixedBytes.ofBytes_of_length (by rw [flatMap_bytes_length, hfour])
  have hcell := getElem?_eq_cell (roundKey ws j) r.isLt hc
  rw [hbytes, flatMap_bytes_getElem?, List.getElem?_take_of_lt hc, List.getElem?_drop, hw] at hcell
  exact (Option.some.inj hcell).symm

/-- Settles O45: the expansion is a key schedule of 44 words, and a round key is four of its words. -/
theorem keyScheduleRecurrence : Obligations.KeyScheduleRecurrence := by
  intro k
  have hlen := keyExpansion_length k
  refine ⟨hlen, fun i hi => keyExpansion_getElem?_of_lt_four k hi, fun i hi hlt => ?_, fun s j r c hr hc hj => ?_⟩
  · have hw := List.getElem?_eq_getElem (hlen.symm ▸ hlt)
    obtain ⟨prev, old, hprev, hold, hnext⟩ := (keyExpansion_isKeySchedule k).next_word i _ hi hw
    refine ⟨_, prev, old, hw, hprev, hold, fun hmod => ?_, fun hmod t ht => ?_⟩
    · rw [hnext, nextKeyWord_of_mod_ne_zero hmod]
    · have htcore : t = scheduleCore (i / 4) prev := FixedBytes.eq_of_bytes (ht.trans (scheduleCore_bytes _ _).symm)
      rw [hnext, nextKeyWord_of_mod_eq_zero hmod, htcore]
  · have hw := List.getElem?_eq_getElem (l := keyExpansion k) (i := 4 * j + c) (by omega)
    exact ⟨_, hw, by rw [addRoundKey, cell_xor, cell_roundKey ⟨r, hr⟩ hc (by omega) hw]⟩

/-! ## The S-box (rules R172, R178)

The inverses of all 256 bytes are evaluated once, in `sbox_eq_sboxAffine_gf8Inv`. Since the affine map can be undone,
the table then gives each inverse back, and what is left to evaluate of `gf8Inv` is evaluated on the table. -/

/-- The affine map of rule R172. -/
def sboxAffine (b : Byte) : Byte :=
  b ^^^ b.rotateLeft 1 ^^^ b.rotateLeft 2 ^^^ b.rotateLeft 3 ^^^ b.rotateLeft 4 ^^^ 0x63#8

/-- The inverse of the affine map, an affine map of the same form. -/
def sboxUnaffine (b : Byte) : Byte := b.rotateLeft 1 ^^^ b.rotateLeft 3 ^^^ b.rotateLeft 6 ^^^ 0x05#8

theorem sboxUnaffine_sboxAffine : ∀ b, sboxUnaffine (sboxAffine b) = b := by decide +kernel

/-- The table against its formula, entry by entry. -/
theorem sbox_eq_sboxAffine_gf8Inv : ∀ a, sbox a = sboxAffine (gf8Inv a) := by decide +kernel

/-- The inverse read off the table. -/
theorem gf8Inv_eq_sboxUnaffine_sbox (a : Byte) : gf8Inv a = sboxUnaffine (sbox a) := by
  rw [sbox_eq_sboxAffine_gf8Inv, sboxUnaffine_sboxAffine]

theorem gf8Mul_gf8Inv : ∀ a, a ≠ 0#8 → gf8Mul a (gf8Inv a) = 1#8 := by
  simp only [gf8Inv_eq_sboxUnaffine_sbox]
  decide +kernel

theorem gf8Inv_gf8Inv : ∀ a, gf8Inv (gf8Inv a) = a := by
  simp only [gf8Inv_eq_sboxUnaffine_sbox]
  decide +kernel

/-- The table is a permutation: both the affine map and the inverse can be undone. -/
theorem sbox_injective : Function.Injective sbox := by
  have haffine : Function.Injective sboxAffine := Function.LeftInverse.injective sboxUnaffine_sboxAffine
  have hinv : Function.Injective gf8Inv := Function.LeftInverse.injective gf8Inv_gf8Inv
  rw [funext sbox_eq_sboxAffine_gf8Inv]
  exact haffine.comp hinv

/-- Settles O43: the table is `sboxAffine` of the inverse, entry by entry. -/
theorem sboxIsAffineOfInverse : Obligations.SboxIsAffineOfInverse :=
  ⟨gf8Mul_gf8Inv, gf8Inv_eq_sboxUnaffine_sbox 0, sbox_eq_sboxAffine_gf8Inv, fun _ _ h => sbox_injective h⟩

/-! ## The public examples (rule R181) -/

theorem aes_exampleA :
    aes (.ofNat 16 0x2b7e151628aed2a6abf7158809cf4f3c) (.ofNat 16 0x3243f6a8885a308d313198a2e0370734) =
      .ofNat 16 0x3925841d02dc09fbdc118597196a0b32 := by
  decide +kernel

theorem aes_exampleB :
    aes (.ofNat 16 0x000102030405060708090a0b0c0d0e0f) (.ofNat 16 0x00112233445566778899aabbccddeeff) =
      .ofNat 16 0x69c4e0d86a7b0430d8cdb78070b4c55a := by
  decide +kernel

theorem aes_zero : aes (.zero 16) (.zero 16) = .ofNat 16 0x66e94bd4ef8a2c3b884cfa59ca342b2e := by decide +kernel

/-- Settles O46: each example is evaluated, the cipher text apart from the round keys. -/
theorem aesPublicExamples : Obligations.AesPublicExamples :=
  ⟨aes_exampleA, by decide +kernel, by decide +kernel, aes_exampleB, by decide +kernel, by decide +kernel, aes_zero⟩

end Sys2Proof.Machine

namespace Sys2Proof

/-! ## Bytes and the integers they stand for (rule R7) -/

@[simp] theorem intBE_append_singleton (l : Bytes) (b : Byte) : intBE (l ++ [b]) = intBE l * 256 + b.toNat := by
  simp [intBE]

theorem intBE_beBytes (n v : Nat) : intBE (beBytes n v) = v % 256 ^ n := by
  induction n generalizing v with
  | zero => simp [intBE, Nat.mod_one]
  | succ n ih =>
    rw [beBytes_succ, intBE_append_singleton, ih, BitVec.toNat_ofNat, Nat.pow_succ' (m := 256), Nat.mod_mul]
    omega

/-- A string is its integer in as many bytes. -/
theorem beBytes_intBE (l : Bytes) : beBytes l.length (intBE l) = l := by
  induction l using List.reverseRecOn with
  | nil => rfl
  | append_singleton l b ih =>
    have hb := b.isLt
    have hdiv : (intBE l * 256 + b.toNat) / 256 = intBE l := by omega
    have hbyte : BitVec.ofNat 8 (intBE l * 256 + b.toNat) = b :=
      BitVec.eq_of_toNat_eq (by rw [BitVec.toNat_ofNat]; omega)
    rw [List.length_append, List.length_singleton, beBytes_succ, intBE_append_singleton, hdiv, hbyte, ih]

theorem intBE_lt (l : Bytes) : intBE l < 256 ^ l.length := by
  have h := intBE_beBytes l.length (intBE l)
  rw [beBytes_intBE] at h
  exact h ▸ Nat.mod_lt _ (by positivity)

theorem beBytes_of_zero (n : Nat) : beBytes n 0 = List.replicate n 0#8 := by
  induction n with
  | zero => rfl
  | succ n ih => rw [beBytes_succ, Nat.zero_div, ih, List.replicate_succ']

theorem beBytes_add (m n v : Nat) : beBytes (m + n) v = beBytes m (v / 256 ^ n) ++ beBytes n v := by
  induction n generalizing v with
  | zero => simp
  | succ n ih =>
    rw [← Nat.add_assoc, beBytes_succ, ih, Nat.div_div_eq_div_mul, ← Nat.pow_succ', List.append_assoc,
      ← beBytes_succ]

theorem beBytes_xor (n u v : Nat) :
    beBytes n (u ^^^ v) = List.zipWith (· ^^^ ·) (beBytes n u) (beBytes n v) := by
  induction n generalizing u v with
  | zero => rfl
  | succ n ih =>
    have hdiv : (u ^^^ v) / 256 = u / 256 ^^^ v / 256 := Nat.xor_div_two_pow (n := 8)
    rw [beBytes_succ, beBytes_succ, beBytes_succ, hdiv, ih, BitVec.ofNat_xor,
      List.zipWith_append (by rw [beBytes_length, beBytes_length])]
    rfl

/-! ## The xor of byte strings (rule R7) -/

theorem xorLeading_append (x a b : Bytes) :
    xorLeading x (a ++ b) = xorLeading (x.take a.length) a ++ xorLeading (x.drop a.length) b := by
  induction a generalizing x with
  | nil => simp [xorLeading]
  | cons k a ih =>
    cases x with
    | nil => rfl
    | cons y x => exact congrArg (_ :: ·) (ih x)

/-- Adding the same bytes twice changes nothing. -/
theorem xorLeading_xorLeading {x ks : Bytes} (h : x.length ≤ ks.length) : xorLeading (xorLeading x ks) ks = x := by
  induction x generalizing ks with
  | nil => rfl
  | cons b x ih =>
    cases ks with
    | nil => simp at h
    | cons k ks =>
      have hb : (b ^^^ k) ^^^ k = b := by simp
      have hx := ih (ks := ks) (by simpa using h)
      exact congrArg₂ List.cons hb hx

theorem xorLeading_block (x ks : Bytes) (i : Nat) :
    ((xorLeading x ks).drop i).take 16 = xorLeading ((x.drop i).take 16) ((ks.drop i).take 16) := by
  simp [xorLeading, List.drop_zipWith, List.take_zipWith]

namespace Machine

/-! ## The counter (rule R190) -/

/-- Settles O47: the block is its first twelve bytes and the four bytes of the counter. -/
theorem inc32CountsInLastFourBytes : Obligations.Inc32CountsInLastFourBytes := by
  intro x
  have hhead : (x.slice 0 12).bytes = x.bytes.take 12 := rfl
  have hctr : (x.slice 12 4).bytes = x.bytes.drop 12 := List.take_of_length_le (by simp [x.size])
  have hlen : (x.slice 0 12).bytes.length = 12 := (x.slice 0 12).size
  constructor
  · rw [inc32, FixedBytes.append_bytes, List.take_left' hlen, hhead]
  · rw [inc32, FixedBytes.append_bytes, List.drop_left' hlen, FixedBytes.ofNat_bytes, intBE_beBytes, hctr]
    exact Nat.mod_mod ..

/-! ## Counter mode (rule R191)

`GCTR` is the string xor a keystream that depends on the key, the initial counter block and the number of blocks only;
each part of O48 is a fact about the xor with a keystream. -/

/-- The encrypted counter blocks one after another, `n` of them from `cb` on. -/
def keystream (k : Block) : Nat → Block → Bytes
  | 0, _ => []
  | n + 1, cb => (aes k cb).bytes ++ keystream k n (inc32 cb)

theorem keystream_length (k : Block) (n : Nat) (cb : Block) : (keystream k n cb).length = 16 * n := by
  induction n generalizing cb with
  | zero => rfl
  | succ n ih => rw [keystream, List.length_append, (aes k cb).size, ih]; omega

theorem keystream_block (k : Block) {n i : Nat} (cb : Block) (h : i < n) :
    ((keystream k n cb).drop (16 * i)).take 16 = (aes k (inc32^[i] cb)).bytes := by
  induction n generalizing i cb with
  | zero => omega
  | succ n ih =>
    have hsize := (aes k cb).size
    cases i with
    | zero => exact List.take_left' hsize
    | succ i =>
      have hcut : 16 * (i + 1) = 16 + 16 * i := by omega
      rw [keystream, hcut, ← List.drop_drop, List.drop_left' hsize, ih _ (by omega), Function.iterate_succ_apply]

theorem gctrBlocks_eq_xorLeading_keystream (k : Block) (n : Nat) (cb : Block) (x : Bytes) :
    gctrBlocks k n cb x = xorLeading x (keystream k n cb) := by
  induction n generalizing cb x with
  | zero => simp [gctrBlocks, keystream, xorLeading]
  | succ n ih => rw [gctrBlocks, keystream, xorLeading_append, (aes k cb).size, ih]

theorem gctr_eq_xorLeading_keystream (k icb : Block) (x : Bytes) :
    gctr k icb x = xorLeading x (keystream k ((x.length + 15) / 16) icb) :=
  gctrBlocks_eq_xorLeading_keystream ..

theorem gctr_gctr (k icb : Block) (x : Bytes) : gctr k icb (gctr k icb x) = x := by
  rw [gctr_eq_xorLeading_keystream k icb (gctr k icb x), gctr_length, gctr_eq_xorLeading_keystream k icb x,
    xorLeading_xorLeading]
  rw [keystream_length]
  omega

theorem gctr_block (k icb : Block) (x : Bytes) (i : Nat) :
    ((gctr k icb x).drop (16 * i)).take 16 =
      xorLeading ((x.drop (16 * i)).take 16) (aes k (inc32^[i] icb)).bytes := by
  rw [gctr_eq_xorLeading_keystream, xorLeading_block]
  by_cases hi : i < (x.length + 15) / 16
  · rw [keystream_block k icb hi]
  · have hend : x.drop (16 * i) = [] := List.drop_of_length_le (by omega)
    simp [hend, xorLeading]

/-- Settles O48: the three parts hold of the xor with a keystream. -/
theorem gctrIsItsOwnInverse : Obligations.GctrIsItsOwnInverse :=
  fun k icb x => ⟨gctr_length k icb x, gctr_gctr k icb x, gctr_block k icb x⟩

/-! ## Padding and the GHASH input (rules R192, R196) -/

@[simp] theorem pad16_length_mod (x : Bytes) : (pad16 x).length % 16 = 0 := by
  rw [pad16, List.length_append, List.length_replicate]
  omega

/-- Settles O49: `(16 - |X| mod 16) mod 16` is the least number that completes `|X|` to a multiple of 16. -/
theorem pad16IsShortest : Obligations.Pad16IsShortest :=
  fun x => ⟨_, rfl, by omega, pad16_length_mod x, fun m hm => by omega, rfl⟩

theorem ghashIn_length (a c : Bytes) : (ghashIn a c).length = (pad16 a).length + (pad16 c).length + 16 := by
  simp [ghashIn, beBytes_length, Nat.add_assoc]

/-- Settles O50: both lengths in bits fit in eight bytes, the second in two. -/
theorem ghashInputForm : Obligations.GhashInputForm := by
  intro a c ha hc
  have hlen := ghashIn_length a c
  have hpa := pad16_length_mod a
  have hpc := pad16_length_mod c
  have hsmall : 8 * c.length / 256 ^ 2 = 0 := by omega
  refine ⟨by omega, by omega, beBytes 8 (8 * a.length), beBytes 8 (8 * c.length), rfl, beBytes_length ..,
    beBytes_length .., ?_, ?_, ?_⟩
  · rw [intBE_beBytes, Nat.mod_eq_of_lt (by omega)]
  · rw [intBE_beBytes, Nat.mod_eq_of_lt (by omega)]
  · rw [beBytes_add 6 2, List.take_left' (beBytes_length ..), hsmall, beBytes_of_zero]

/-! ## GHASH (rule R195) -/

theorem ghashBlocks_append (h b : Block) {n : Nat} (y : Block) {x : Bytes} (hx : x.length = 16 * n) :
    ghashBlocks h (n + 1) y (x ++ b.bytes) = blockMul ((ghashBlocks h n y x).xor b) h := by
  induction n generalizing y x with
  | zero =>
    obtain rfl : x = [] := List.length_eq_zero_iff.1 hx
    have hb : FixedBytes.ofBytes 16 (b.bytes.take 16) = b :=
      FixedBytes.eq_of_bytes (by
        rw [List.take_of_length_le (by rw [b.size]), FixedBytes.ofBytes_of_length b.size])
    exact congrArg (fun c => blockMul (y.xor c) h) hb
  | succ n ih =>
    rw [ghashBlocks, List.take_append_of_le_length (by omega), List.drop_append_of_le_length (by omega),
      ih _ (by simp; omega)]
    rfl

/-- Settles O52: the loop takes one more turn for one more block. -/
theorem ghashRecurrence : Obligations.GhashRecurrence := by
  intro h x b hx
  have hturns : (x ++ b.bytes).length / 16 = x.length / 16 + 1 := by
    rw [List.length_append, b.size]
    omega
  exact ⟨rfl, by rw [ghash, hturns, ghashBlocks_append h b _ (by omega)]; rfl⟩

/-! ## The product of bit vectors (rule R194)

`gfMul x y` is the sum of the `gfShift`-powers of `y` that the bits of `x` choose. So whatever is additive and commutes
with `gfShift` commutes with every `gfMul x`, and `gfMul x` is itself such a map. All laws follow from that and from
`gfMul x 1 = x`. -/

theorem gfShift_eq (v : BitVec 128) : gfShift v = v >>> 1 ^^^ (if v.getLsbD 0 then gfPoly else 0#128) := by
  unfold gfShift
  split <;> simp

theorem gfShift_xor (v w : BitVec 128) : gfShift (v ^^^ w) = gfShift v ^^^ gfShift w := by
  have hlast : (if (v ^^^ w).getLsbD 0 then gfPoly else 0#128) =
      (if v.getLsbD 0 then gfPoly else 0#128) ^^^ (if w.getLsbD 0 then gfPoly else 0#128) := by
    rw [BitVec.getLsbD_xor]
    cases v.getLsbD 0 <;> cases w.getLsbD 0 <;> simp
  rw [gfShift_eq, gfShift_eq v, gfShift_eq w, BitVec.ushiftRight_xor_distrib, hlast]
  ac_rfl

/-- Both sums of the loop are additive in the second factor. -/
theorem gfSteps_xor (x y z : BitVec 128) (n : Nat) :
    gfSteps x (y ^^^ z) n =
      ((gfSteps x y n).1 ^^^ (gfSteps x z n).1, (gfSteps x y n).2 ^^^ (gfSteps x z n).2) := by
  induction n with
  | zero => simp [gfSteps]
  | succ n ih =>
    simp only [gfSteps, ih, gfShift_xor]
    split
    · congr 1
      ac_rfl
    · rfl

/-- An additive map that commutes with the update of `V`. -/
structure ShiftLinear (f : BitVec 128 → BitVec 128) : Prop where
  map_xor : ∀ v w, f (v ^^^ w) = f v ^^^ f w
  map_shift : ∀ v, f (gfShift v) = gfShift (f v)

theorem ShiftLinear.map_zero {f : BitVec 128 → BitVec 128} (hf : ShiftLinear f) : f 0#128 = 0#128 := by
  have h := hf.map_xor 0#128 0#128
  rwa [BitVec.xor_self, BitVec.xor_self] at h

theorem shiftLinear_gfShift : ShiftLinear gfShift := ⟨gfShift_xor, fun _ => rfl⟩

theorem ShiftLinear.map_gfSteps {f : BitVec 128 → BitVec 128} (hf : ShiftLinear f) (x y : BitVec 128) (n : Nat) :
    gfSteps x (f y) n = (f (gfSteps x y n).1, f (gfSteps x y n).2) := by
  induction n with
  | zero => simp [gfSteps, hf.map_zero]
  | succ n ih => simp only [gfSteps, ih, hf.map_shift, apply_ite f, hf.map_xor]

theorem ShiftLinear.map_gfMul {f : BitVec 128 → BitVec 128} (hf : ShiftLinear f) (x y : BitVec 128) :
    f (gfMul x y) = gfMul x (f y) := by
  rw [gfMul, gfMul, hf.map_gfSteps]

theorem shiftLinear_gfMul (x : BitVec 128) : ShiftLinear (gfMul x) where
  map_xor y z := congrArg Prod.fst (gfSteps_xor x y z 128)
  map_shift y := (shiftLinear_gfShift.map_gfMul x y).symm

/-- The identity: the bit `x0` alone. -/
def gfOne : BitVec 128 := BitVec.twoPow 128 127

theorem gfShift_twoPow {n : Nat} (h : n < 127) : gfShift (BitVec.twoPow 128 (n + 1)) = BitVec.twoPow 128 n := by
  have hlast : (BitVec.twoPow 128 (n + 1)).getLsbD 0 = false := by simp
  rw [gfShift, hlast, if_neg Bool.false_ne_true]
  apply BitVec.eq_of_getLsbD_eq
  intro i hi
  simp only [BitVec.getLsbD_ushiftRight, BitVec.getLsbD_twoPow, ← Bool.decide_and, decide_eq_decide]
  omega

/-- `V` runs through the 128 single bits, from `x0` on. -/
theorem gfSteps_one_snd (x : BitVec 128) {n : Nat} (h : n ≤ 127) :
    (gfSteps x gfOne n).2 = BitVec.twoPow 128 (127 - n) := by
  induction n with
  | zero => rfl
  | succ n ih =>
    have hprev : 127 - n = 127 - (n + 1) + 1 := by omega
    rw [gfSteps, ih (by omega), hprev, gfShift_twoPow (by omega)]

/-- `Z` gathers the bits of `x` one by one. -/
theorem gfSteps_one_fst_getMsbD (x : BitVec 128) {n i : Nat} (hn : n ≤ 128) (hi : i < 128) :
    (gfSteps x gfOne n).1.getMsbD i = (decide (i < n) && x.getMsbD i) := by
  induction n with
  | zero => simp [gfSteps]
  | succ n ih =>
    have hbit : (BitVec.twoPow 128 (127 - n)).getMsbD i = decide (i = n) := by
      simp only [BitVec.getMsbD_twoPow, ← Bool.decide_and, decide_eq_decide]
      omega
    have hz := ih (by omega)
    simp only [gfSteps, gfSteps_one_snd x (show n ≤ 127 by omega)]
    obtain rfl | hne := eq_or_ne i n
    · cases hx : x.getMsbD i <;> simp [hx, hz, hbit]
    · have hlt : i < n + 1 ↔ i < n := by omega
      split <;> simp [hz, hbit, hne, hlt]

theorem gfMul_one (x : BitVec 128) : gfMul x gfOne = x :=
  BitVec.eq_of_getMsbD_eq fun i hi => by simp [gfMul, gfSteps_one_fst_getMsbD x (Nat.le_refl 128) hi, hi]

theorem gfMul_left_comm (x y z : BitVec 128) : gfMul x (gfMul y z) = gfMul y (gfMul x z) :=
  (shiftLinear_gfMul x).map_gfMul y z

theorem gfMul_comm (x y : BitVec 128) : gfMul x y = gfMul y x :=
  calc gfMul x y = gfMul x (gfMul y gfOne) := by rw [gfMul_one]
    _ = gfMul y (gfMul x gfOne) := gfMul_left_comm ..
    _ = gfMul y x := by rw [gfMul_one]

theorem gfMul_assoc (x y z : BitVec 128) : gfMul (gfMul x y) z = gfMul x (gfMul y z) :=
  calc gfMul (gfMul x y) z = gfMul z (gfMul x y) := gfMul_comm ..
    _ = gfMul x (gfMul z y) := gfMul_left_comm ..
    _ = gfMul x (gfMul y z) := by rw [gfMul_comm z y]

theorem xor_gfMul (x y z : BitVec 128) : gfMul (x ^^^ y) z = gfMul x z ^^^ gfMul y z := by
  rw [gfMul_comm _ z, (shiftLinear_gfMul z).map_xor, gfMul_comm z x, gfMul_comm z y]

theorem one_gfMul (y : BitVec 128) : gfMul gfOne y = y := by rw [gfMul_comm, gfMul_one]

theorem zero_gfMul (y : BitVec 128) : gfMul 0#128 y = 0#128 := by rw [gfMul_comm, (shiftLinear_gfMul y).map_zero]

/-- `u` is the identity one place to the right, so to multiply by it is the update of `V`. -/
theorem shift_one_gfMul (y : BitVec 128) : gfMul (gfShift gfOne) y = gfShift y := by
  rw [gfMul_comm, (shiftLinear_gfMul y).map_shift, gfMul_one]

/-! ## Blocks and bit vectors (rule R193) -/

@[simp] theorem blockBits_bitsBlock (v : BitVec 128) : blockBits (bitsBlock v) = v := by
  have hlt : v.toNat < 256 ^ 16 := v.isLt
  rw [blockBits, bitsBlock, FixedBytes.ofNat_bytes, intBE_beBytes, Nat.mod_eq_of_lt hlt, BitVec.ofNat_toNat,
    BitVec.setWidth_eq]

theorem bitsBlock_blockBits (x : Block) : bitsBlock (blockBits x) = x := by
  have hlt : intBE x.bytes < 2 ^ 128 := by simpa [x.size] using intBE_lt x.bytes
  apply FixedBytes.eq_of_bytes
  rw [bitsBlock, blockBits, FixedBytes.ofNat_bytes, BitVec.toNat_ofNat, Nat.mod_eq_of_lt hlt]
  simpa [x.size] using beBytes_intBE x.bytes

theorem bitsBlock_surjective : Function.Surjective bitsBlock := fun x => ⟨blockBits x, bitsBlock_blockBits x⟩

theorem bitsBlock_xor (v w : BitVec 128) : (bitsBlock v).xor (bitsBlock w) = bitsBlock (v ^^^ w) :=
  FixedBytes.eq_of_bytes (by simp [bitsBlock, beBytes_xor])

theorem blockMul_bitsBlock (v w : BitVec 128) : blockMul (bitsBlock v) (bitsBlock w) = bitsBlock (gfMul v w) := by
  simp [blockMul]

/-- Settles O51: each law of blocks is the law of their bit vectors; the examples are evaluated. -/
theorem blockProductIsFieldProduct : Obligations.BlockProductIsFieldProduct := by
  have hone : FixedBytes.ofNat 16 0x80000000000000000000000000000000 = bitsBlock gfOne := rfl
  have hu : FixedBytes.ofNat 16 0x40000000000000000000000000000000 = bitsBlock (gfShift gfOne) := by decide +kernel
  have hzero : FixedBytes.zero 16 = bitsBlock 0#128 := rfl
  refine ⟨?comm, ?assoc, ?distrib, ?one, ?zero, ?u, by decide +kernel, by decide +kernel, by decide +kernel⟩
  case comm =>
    refine bitsBlock_surjective.forall₂.2 fun x y => ?_
    rw [blockMul_bitsBlock, blockMul_bitsBlock, gfMul_comm]
  case assoc =>
    refine bitsBlock_surjective.forall₃.2 fun x y z => ?_
    simp only [blockMul_bitsBlock, gfMul_assoc]
  case distrib =>
    refine bitsBlock_surjective.forall₃.2 fun x y z => ?_
    simp only [bitsBlock_xor, blockMul_bitsBlock, xor_gfMul]
  case one =>
    refine bitsBlock_surjective.forall.2 fun y => ?_
    rw [hone, blockMul_bitsBlock, one_gfMul]
  case zero =>
    refine bitsBlock_surjective.forall.2 fun y => ?_
    rw [hzero, blockMul_bitsBlock, zero_gfMul]
  case u =>
    refine bitsBlock_surjective.forall.2 fun y => ?_
    rw [hu, blockMul_bitsBlock, shift_one_gfMul, blockBits_bitsBlock, blockBits_bitsBlock]
    rfl

end Machine

end Sys2Proof

namespace Sys2Proof

/-! ## Which frames are no command (rules R72, R74) -/

/-- A frame is empty, begins with a byte that names no operation, or begins with an operation's byte. -/
theorem frame_cases (f : Bytes) :
    f = [] ∨ (∃ op data, f = op :: data ∧ (op.toNat < 1 ∨ 5 < op.toNat)) ∨
      ∃ (o : Opcode) (data : Bytes), f = o.byte :: data := by
  cases f with
  | nil => exact .inl rfl
  | cons op data =>
    by_cases hop : op.toNat < 1 ∨ 5 < op.toNat
    · exact .inr (.inl ⟨op, data, rfl, hop⟩)
    · obtain ⟨o, rfl⟩ : ∃ o : Opcode, o.byte = op := exists_byte_eq (by omega) (by omega)
      exact .inr (.inr ⟨o, data, rfl⟩)

/-- Decoding a frame that begins with an operation's byte never ends in UNKNOWN_OP. -/
theorem decode_byte_cons_ne_unknownOp (o : Opcode) (data : Bytes) : decode (o.byte :: data) ≠ .error .unknownOp := by
  by_cases hlen : data.length = o.operandLen
  · simp [decode_of_length hlen]
  · simp [decode_of_length_ne hlen]

theorem decode_eq_unknownOp_iff (f : Bytes) :
    decode f = .error .unknownOp ↔ f = [] ∨ ∃ op data, f = op :: data ∧ (op.toNat < 1 ∨ 5 < op.toNat) := by
  constructor
  · intro hd
    obtain rfl | hop | ⟨o, data, rfl⟩ := frame_cases f
    · exact .inl rfl
    · exact .inr hop
    · exact absurd hd (decode_byte_cons_ne_unknownOp o data)
  · rintro (rfl | ⟨op, data, rfl, hop⟩)
    · rfl
    · exact decode_of_unknown data hop

theorem decode_byte_cons_eq_badLength_iff (o : Opcode) (data : Bytes) :
    decode (o.byte :: data) = .error .badLength ↔ data.length ≠ o.operandLen := by
  by_cases hlen : data.length = o.operandLen
  · simp [decode_of_length hlen, hlen]
  · simp [decode_of_length_ne hlen, hlen]

/-- The wrong frame lengths of rule R72: a frame is one byte longer than its operand. -/
theorem length_ne_operandLen_iff (o : Opcode) (data : Bytes) :
    data.length ≠ o.operandLen ↔
      (o.byte.toNat = 1 ∧ (o.byte :: data).length ≠ 17) ∨ (o.byte.toNat = 2 ∧ (o.byte :: data).length ≠ 283) ∨
        (3 ≤ o.byte.toNat ∧ o.byte.toNat ≤ 5 ∧ (o.byte :: data).length ≠ 1) := by
  cases o <;> simp [Opcode.byte, Opcode.operandLen]

theorem decode_eq_badLength_iff (f : Bytes) :
    decode f = .error .badLength ↔ ∃ op data, f = op :: data ∧
      ((op.toNat = 1 ∧ f.length ≠ 17) ∨ (op.toNat = 2 ∧ f.length ≠ 283) ∨
        (3 ≤ op.toNat ∧ op.toNat ≤ 5 ∧ f.length ≠ 1)) := by
  constructor
  · intro hd
    obtain rfl | ⟨op, data, rfl, hop⟩ | ⟨o, data, rfl⟩ := frame_cases f
    · cases hd
    · rw [decode_of_unknown data hop] at hd
      cases hd
    · exact ⟨_, data, rfl, (length_ne_operandLen_iff o data).1 ((decode_byte_cons_eq_badLength_iff o data).1 hd)⟩
  · rintro ⟨op, data, rfl, hlen⟩
    obtain ⟨o, rfl⟩ : ∃ o : Opcode, o.byte = op := exists_byte_eq (by omega) (by omega)
    exact (decode_byte_cons_eq_badLength_iff o data).2 ((length_ne_operandLen_iff o data).2 hlen)

end Sys2Proof

namespace Sys2Proof.Machine

/-! ## Exceptions: refusals and errors (rules R210 to R215) -/

/-- Settles O23: the cycle's end, the error's class and the phase it leads to, for each of the three errors. -/
theorem raiseEndsCycle : Obligations.RaiseEndsCycle :=
  ⟨fun _ => rfl, fun _ => rfl, fun _ => rfl⟩

/-- Settles O32: what RECOVER does with a frame, of the state from which the frame has been taken. -/
theorem recoverRefusesEveryFrame : Obligations.RecoverRefusesEveryFrame := by
  intro s f rest hp hi
  obtain ⟨c, hc, hx⟩ := frameStep_of_recover (s := { s with inputs := rest }) f hp
  exact ⟨c, (step_frame hi).trans hx, hc⟩

theorem RefuseCause.cstat_ne_ok (c : RefuseCause) : c.cstat ≠ .ok := by
  cases c <;> simp [RefuseCause.cstat]

/-- `CSTAT` tells the four refusals apart (rule R32). -/
theorem RefuseCause.cstat_inj {c d : RefuseCause} : c.cstat = d.cstat ↔ c = d := by
  cases c <;> cases d <;> decide

/-! ### When a command is refused with SEQ (rule R213) -/

theorem refusedWith_seq_ldkey {s : State} {data : Bytes} : RefusedWith s (.ldkey data) .seq ↔ s.phase ≠ .idle := by
  simp [RefusedWith, phaseTable_ldkey]

theorem refusedWith_seq_ldwin {s : State} {data : Bytes} : RefusedWith s (.ldwin data) .seq ↔ s.phase = .recover := by
  simp [RefusedWith, phaseTable_ldwin]

theorem refusedWith_seq_split {s : State} : RefusedWith s .split .seq ↔ s.phase ≠ .loaded := by
  simp [RefusedWith, phaseTable_split]

theorem refusedWith_seq_decrypt {s : State} : RefusedWith s .decrypt .seq ↔ s.phase ≠ .envelope := by
  simp [RefusedWith, phaseTable_decrypt]

theorem refusedWith_seq_clr {s : State} : RefusedWith s .clr .seq ↔ s.phase = .recover := by
  simp [RefusedWith, phaseTable_clr]

/-! ### A command is refused exactly when the rule says so -/

/-- Where the table has no cell for a well-formed command, it is refused with SEQ. -/
theorem exec_of_refusedWith_seq {s : State} {i : Instr} (hi : i.wellFormed = true) (h : RefusedWith s i .seq) :
    exec i s = .next (s.refuse .seq) := by
  cases i with
  | ldkey data => exact exec_ldkey_of_ne_idle ⟨data, wellFormed_ldkey.1 hi⟩ (refusedWith_seq_ldkey.1 h)
  | ldwin data => exact exec_ldwin_of_recover ⟨data, wellFormed_ldwin.1 hi⟩ (refusedWith_seq_ldwin.1 h)
  | split => exact exec_split_of_ne_loaded (refusedWith_seq_split.1 h)
  | decrypt => exact exec_decrypt_of_ne_envelope (refusedWith_seq_decrypt.1 h)
  | clr => exact exec_clr_of_recover (refusedWith_seq_clr.1 h)

theorem exec_of_refusedWith {s : State} {i : Instr} {c : RefuseCause} (hi : i.wellFormed = true)
    (h : RefusedWith s i c) : exec i s = .next (s.refuse c) := by
  cases c with
  | unknownOp => exact h.elim
  | badLength => exact exec_of_not_wellFormed s h
  | seq => exact exec_of_refusedWith_seq hi h
  | nokey =>
    obtain ⟨rfl, hp, hk⟩ := h
    exact exec_decrypt_of_no_key hp hk

/-- A command is accepted, or it is refused with a cause that holds. -/
theorem ExecEffect.accepted_or_refused {s t : State} {i : Instr} (he : ExecEffect s i t) :
    t.cstat = .ok ∨ ∃ c, RefusedWith s i c ∧ t = s.refuse c := by
  cases he with
  | refused _ c hc => exact .inr ⟨c, hc, rfl⟩
  | keyLoaded | windowLoaded | envelopeStored | frameInvalid | decryptFailed | apduReleased | cleared => exact .inl rfl

/-! ### A frame is refused exactly when the rule says so -/

/-- When a frame is refused with each cause: it is no command, or its command is refused (rule R212). -/
def FrameRefusedWith (s : State) (f : Bytes) (c : RefuseCause) : Prop :=
  (∃ e, decode f = .error e ∧ decodeRefusal e = c) ∨ ∃ i, decode f = .ok i ∧ RefusedWith s i c

theorem frameStep_of_frameRefusedWith {s : State} {f : Bytes} {c : RefuseCause} (h : FrameRefusedWith s f c) :
    frameStep f s = .next (s.refuse c) := by
  obtain ⟨e, hd, rfl⟩ | ⟨i, hd, hc⟩ := h
  · exact frameStep_of_decode_error s hd
  · exact (frameStep_of_decode_ok s hd).trans (exec_of_refusedWith (wellFormed_of_decode hd) hc)

/-- A frame is a command that is accepted, or it is refused with a cause that holds. -/
theorem frameStep_accepted_or_refused {s t : State} {f : Bytes} (h : frameStep f s = .next t) :
    t.cstat = .ok ∨ ∃ c, FrameRefusedWith s f c ∧ t = s.refuse c := by
  obtain ⟨i, hd, hx⟩ | ⟨e, hd, rfl⟩ := frameStep_cases h
  · exact (exec_effect hx).accepted_or_refused.imp_right fun ⟨c, hc, ht⟩ => ⟨c, .inr ⟨i, hd, hc⟩, ht⟩
  · exact .inr ⟨_, .inl ⟨e, hd, rfl⟩, rfl⟩

/-- `CSTAT` names the cause of a refusal, and no cause that does not hold. -/
theorem frameStep_cstat_iff {s t : State} {f : Bytes} (h : frameStep f s = .next t) (c : RefuseCause) :
    t.cstat = c.cstat ↔ FrameRefusedWith s f c := by
  constructor
  · intro ht
    obtain hok | ⟨d, hd, rfl⟩ := frameStep_accepted_or_refused h
    · exact absurd (ht.symm.trans hok) c.cstat_ne_ok
    · obtain rfl : d = c := RefuseCause.cstat_inj.1 ht
      exact hd
  · intro hc
    obtain rfl := Host.Outcome.next.inj ((frameStep_of_frameRefusedWith hc).symm.trans h)
    rfl

theorem frameRefusedWith_unknownOp_iff {s : State} {f : Bytes} :
    FrameRefusedWith s f .unknownOp ↔ decode f = .error .unknownOp := by
  constructor
  · rintro (⟨e, hd, he⟩ | ⟨i, -, hc⟩)
    · cases e with
      | unknownOp => exact hd
      | badLength => cases he
    · exact hc.elim
  · exact fun hd => .inl ⟨_, hd, rfl⟩

/-- The frame of a wrong length is refused before it is a command. -/
theorem frameRefusedWith_badLength_iff {s : State} {f : Bytes} :
    FrameRefusedWith s f .badLength ↔ decode f = .error .badLength := by
  constructor
  · rintro (⟨e, hd, he⟩ | ⟨i, hd, hc⟩)
    · cases e with
      | unknownOp => cases he
      | badLength => exact hd
    · exact absurd (wellFormed_of_decode hd) (Bool.eq_false_iff.1 hc)
  · exact fun hd => .inl ⟨_, hd, rfl⟩

/-- SEQ and NOKEY are refusals of commands only. -/
theorem frameRefusedWith_iff_of_command {s : State} {f : Bytes} {c : RefuseCause} (hc : c = .seq ∨ c = .nokey) :
    FrameRefusedWith s f c ↔ ∃ i, decode f = .ok i ∧ RefusedWith s i c := by
  constructor
  · rintro (⟨e, -, rfl⟩ | h)
    · cases e <;> simp [decodeRefusal] at hc
    · exact h
  · exact .inr

theorem frameRefusedWith_seq_iff {s : State} {f : Bytes} :
    FrameRefusedWith s f .seq ↔
      ((∃ data, decode f = .ok (.ldkey data)) ∧ s.phase ≠ .idle) ∨ (decode f = .ok .split ∧ s.phase ≠ .loaded) ∨
        (decode f = .ok .decrypt ∧ s.phase ≠ .envelope) ∨
        (((∃ data, decode f = .ok (.ldwin data)) ∨ decode f = .ok .clr) ∧ s.phase = .recover) := by
  rw [frameRefusedWith_iff_of_command (.inl rfl)]
  constructor
  · rintro ⟨i, hd, hc⟩
    cases i with
    | ldkey data => exact .inl ⟨⟨data, hd⟩, refusedWith_seq_ldkey.1 hc⟩
    | ldwin data => exact .inr (.inr (.inr ⟨.inl ⟨data, hd⟩, refusedWith_seq_ldwin.1 hc⟩))
    | split => exact .inr (.inl ⟨hd, refusedWith_seq_split.1 hc⟩)
    | decrypt => exact .inr (.inr (.inl ⟨hd, refusedWith_seq_decrypt.1 hc⟩))
    | clr => exact .inr (.inr (.inr ⟨.inr hd, refusedWith_seq_clr.1 hc⟩))
  · rintro (⟨⟨data, hd⟩, hp⟩ | ⟨hd, hp⟩ | ⟨hd, hp⟩ | ⟨⟨data, hd⟩ | hd, hp⟩)
    · exact ⟨_, hd, refusedWith_seq_ldkey.2 hp⟩
    · exact ⟨_, hd, refusedWith_seq_split.2 hp⟩
    · exact ⟨_, hd, refusedWith_seq_decrypt.2 hp⟩
    · exact ⟨_, hd, refusedWith_seq_ldwin.2 hp⟩
    · exact ⟨_, hd, refusedWith_seq_clr.2 hp⟩

theorem frameRefusedWith_nokey_iff {s : State} {f : Bytes} :
    FrameRefusedWith s f .nokey ↔ decode f = .ok .decrypt ∧ s.phase = .envelope ∧ s.key = none := by
  rw [frameRefusedWith_iff_of_command (.inr rfl)]
  constructor
  · rintro ⟨i, hd, rfl, hp, hk⟩
    exact ⟨hd, hp, hk⟩
  · rintro ⟨hd, hp, hk⟩
    exact ⟨_, hd, rfl, hp, hk⟩

/-- Settles O29: a frame that is not accepted is refused, and `CSTAT` names the one cause that holds. -/
theorem refusalsChangeCstatOnly : Obligations.RefusalsChangeCstatOnly := by
  intro s t f rest hi h
  rw [step_frame hi] at h
  have cstat_iff := frameStep_cstat_iff h
  refine ⟨fun hne => ?_, ?_, ?_, ?_, ?_⟩
  · obtain hok | ⟨c, -, rfl⟩ := frameStep_accepted_or_refused h
    · exact absurd hok hne
    · rfl
  · exact (cstat_iff .unknownOp).trans (frameRefusedWith_unknownOp_iff.trans (decode_eq_unknownOp_iff f))
  · exact (cstat_iff .badLength).trans (frameRefusedWith_badLength_iff.trans (decode_eq_badLength_iff f))
  · exact (cstat_iff .seq).trans frameRefusedWith_seq_iff
  · exact (cstat_iff .nokey).trans frameRefusedWith_nokey_iff

end Sys2Proof.Machine

namespace Sys2Proof.Machine

/-! ## Reset and hazards (rules R250, R257, R263) -/

/-- Outside RECOVER the block waits for the host (rule R263). -/
theorem quietStep_of_ne_recover {s : State} (hp : s.phase ≠ .recover) : quietStep s = .next s := by
  simp [quietStep, hp]

/-- With no input left, some next state is answered in every phase. -/
theorem quietStep_next (s : State) : ∃ t, quietStep s = .next t := by
  by_cases hp : s.phase = .recover
  · exact ⟨_, quietStep_of_recover hp⟩
  · exact ⟨_, quietStep_of_ne_recover hp⟩

/-- Settles O28, by the agent whose step is next: the invariant is what a command needs, RECOVER what the timer needs. -/
theorem blockNeverStops : Obligations.BlockNeverStops := by
  intro s h htimer
  cases hi : s.inputs with
  | nil => simpa only [step_quiet hi] using quietStep_next s
  | cons e rest =>
    cases e with
    | frame f =>
      have hframe : InvOutsideRecover { s with inputs := rest } := fun _ => h.withInputs rest
      obtain ⟨t, hx, -⟩ := hframe.frameStep_next f
      exact ⟨t, (step_frame hi).trans hx⟩
    | timer => exact ⟨_, (step_timer hi).trans (timerExpiry_of_recover (htimer rest hi))⟩
    | reset => exact ⟨_, step_reset hi⟩

/-- The only command that changes `KEY` is the `LDKEY` accepted in IDLE. -/
theorem ExecEffect.key_change {s t : State} {i : Instr} (he : ExecEffect s i t) (hne : t.key ≠ s.key) :
    ∃ k : FixedBytes Config.keyLen, i = .ldkey k.bytes ∧ s.phase = .idle ∧ t.key = some k := by
  cases he with
  | keyLoaded k hp => exact ⟨k, rfl, hp, rfl⟩
  | refused | windowLoaded | envelopeStored | frameInvalid | decryptFailed | apduReleased | cleared =>
    exact absurd rfl hne

/-- Settles O35: of all that a step can do, only the reset and a command touch `KEY`. -/
theorem keyChangesOnlyInIdleOrReset : Obligations.KeyChangesOnlyInIdleOrReset := by
  intro s t h hne
  cases step_effect h with
  | reset rest hi => exact .inl ⟨rest, hi, rfl⟩
  | waits | quietPauseEnds | timer | badFrame => exact absurd rfl hne
  | command f rest i _ hi hd he =>
    obtain ⟨k, rfl, hp, hk⟩ := he.key_change hne
    exact .inr ⟨f, rest, k.bytes, hi, hd, hp, by rw [hk, Option.map_some]⟩

end Sys2Proof.Machine

namespace Sys2Proof

/-! ## Decode and encode agree (rules R70 to R73) -/

/-- The frame of a command built from an operation and an operand of the table's length (rule R70). -/
theorem encode_instr {o : Opcode} {data : Bytes} (h : data.length = o.operandLen) :
    encode (o.instr data) = o.byte :: data := by
  cases o with
  | ldkey | ldwin => rfl
  | split | decrypt | clr =>
    obtain rfl := List.eq_nil_of_length_eq_zero h
    rfl

/-- What decodes to a command is that command's frame: a frame of no command, or of a wrong length, is an error. -/
theorem encode_of_decode {f : Bytes} {i : Instr} (h : decode f = .ok i) : encode i = f := by
  obtain rfl | ⟨op, data, rfl, hop⟩ | ⟨o, data, rfl⟩ := frame_cases f
  · cases h
  · rw [decode_of_unknown data hop] at h
    cases h
  · by_cases hlen : data.length = o.operandLen
    · rw [decode_of_length hlen] at h
      cases h
      exact encode_instr hlen
    · rw [decode_of_length_ne hlen] at h
      cases h

/-- Settles O7: the decoder checks the length and keeps every byte, and the encoder's frames pass its checks. -/
theorem decodeEncodeAgree : Obligations.DecodeEncodeAgree := by
  intro f i
  constructor
  · exact fun h => ⟨wellFormed_of_decode h, encode_of_decode h⟩
  · rintro ⟨hi, rfl⟩
    exact decode_encode_of_wellFormed hi

end Sys2Proof

namespace Sys2Proof.Machine

/-! ## The window of a sealed plaintext (rules R77, R121 to R124, R141) -/

/-- The part of a byte string that stands between two others. -/
theorem take_drop_of_append {x a b c : Bytes} {m n : Nat} (hx : x = a ++ b ++ c) (ha : a.length = m)
    (hb : b.length = n) : (x.drop m).take n = b := by
  subst hx ha hb
  rw [List.append_assoc, List.drop_left, List.take_left]

section

variable {w : FixedBytes Config.windowLen} {l : Byte} {fillA : FixedBytes 7} {title : FixedBytes Config.titleLen}
  {fillB : FixedBytes 3} {ctr : FixedBytes Config.ctrLen} {span rest : Bytes}
  (hw : w.bytes = windowBytes l fillA title fillB ctr span rest)
include hw

/-- The wrapper of `windowBytes` passes the three comparisons (rule R121). -/
theorem validWindow_of_windowBytes : validWindow w = true :=
  (windowValidityIsThreeComparisons w).2 (by simp [hw, windowBytes])

theorem envelopeOf_frameLen_of_windowBytes : (envelopeOf w).frameLen = l := by
  have hl := envelopeOf_frameLen w
  rw [hw] at hl
  exact (Option.some.inj hl).symm

theorem envelopeOf_sysTitle_of_windowBytes : (envelopeOf w).sysTitle = title :=
  FixedBytes.eq_of_bytes (take_drop_of_append (a := [0x68#8, l, l, 0x68#8] ++ fillA.bytes)
    (c := fillB.bytes ++ ctr.bytes ++ span ++ rest) (by simp [hw, windowBytes]) (by simp [fillA.size]) title.size)

theorem envelopeOf_frameCtr_of_windowBytes : (envelopeOf w).frameCtr = ctr :=
  FixedBytes.eq_of_bytes (take_drop_of_append
    (a := [0x68#8, l, l, 0x68#8] ++ fillA.bytes ++ title.bytes ++ fillB.bytes) (c := span ++ rest)
    (by simp [hw, windowBytes])
    (by simp [fillA.size, title.size, fillB.size, Config.titleLen, offCtr]) ctr.size)

/-- Where the declared length is the span's with the 20 bytes before it, `CT_LEN` delimits the span (rule R141). -/
theorem spanOf_of_windowBytes (hl : l.toNat = 20 + span.length) : spanOf w (envelopeOf w).ctLen = span := by
  have hframe := envelopeOf_frameLen_of_windowBytes hw
  have hct : (envelopeOf w).ctLen.toNat = (envelopeOf w).frameLen.toNat - 20 := envelopeOf_ctLen_toNat w
  refine take_drop_of_append (a := [0x68#8, l, l, 0x68#8] ++ fillA.bytes ++ title.bytes ++ fillB.bytes ++ ctr.bytes)
    (c := rest) hw (by simp [fillA.size, title.size, fillB.size, ctr.size, Config.titleLen, Config.ctrLen, offCt]) ?_
  rw [hct, hframe]
  omega

end

/-! ## One cycle over a sealed plaintext (rules R85, R147, R148) -/

/-- Counter mode with the same key and nonce undoes itself (rule R147). -/
theorem gcmStream_gcmStream (k : Block) (nonce : FixedBytes Config.nonceLen) (p : Bytes) :
    gcmStream k nonce (gcmStream k nonce p) = p :=
  gctr_gctr k _ p

theorem sealedSpan_length (k : FixedBytes Config.keyLen) (title : FixedBytes Config.titleLen)
    (ctr : FixedBytes Config.ctrLen) (p : Bytes) :
    (sealedSpan k title ctr p).length = p.length + Config.tagLen.len := by
  simp [sealedSpan, expectedTag_length]

/-- A sealed plaintext carries the tag that `DECRYPT` expects, so it is released (rules R146, R148). -/
theorem decryptCycle_sealedSpan (k : FixedBytes Config.keyLen) (title : FixedBytes Config.titleLen)
    (ctr : FixedBytes Config.ctrLen) (p : Bytes) (s : State) :
    decryptCycle Config.tagLen Config.aad k title ctr (sealedSpan k title ctr p) s = s.accept.releaseApdu p := by
  rw [sealedSpan, decryptCycle_append _ _ _ _ _ _ (expectedTag_length ..), if_pos rfl, gcmStream_gcmStream]

/-- The state in ENVELOPE that `LDWIN w; SPLIT` of a valid window leads to. -/
def envelopeHeld (s : State) (w : FixedBytes Config.windowLen) : State :=
  (s.beginCycle w).accept.accept.storeEnvelope (envelopeOf w)

/-- With a key, `DECRYPT` in that state takes its title, its counter and its span from the window (rules R123, R141). -/
theorem exec_decrypt_envelopeHeld {s : State} {k : FixedBytes Config.keyLen} (w : FixedBytes Config.windowLen)
    (hk : s.key = some k) :
    exec .decrypt (envelopeHeld s w) =
      .next (decryptCycle Config.tagLen Config.aad k (envelopeOf w).sysTitle (envelopeOf w).frameCtr
        (spanOf w (envelopeOf w).ctLen) (envelopeHeld s w)) :=
  exec_decrypt_of_key rfl hk rfl rfl rfl rfl

/-- The three frames of a cycle over a valid window, with a key: `DECRYPT` finds the window's own fields. -/
theorem run_cycle_of_validWindow {s : State} {k : FixedBytes Config.keyLen} {w : FixedBytes Config.windowLen}
    {rest : List Input} (hp : s.phase ≠ .recover) (hk : s.key = some k) (hi : s.inputs = cycleInputs w ++ rest)
    (hv : validWindow w = true) :
    Host.Core.run core 3 s =
      .next (decryptCycle Config.tagLen Config.aad k (envelopeOf w).sysTitle (envelopeOf w).frameCtr
        (spanOf w (envelopeOf w).ctLen) (envelopeHeld { s with inputs := rest } w)) := by
  have hldwin : (Instr.ldwin w.bytes).wellFormed = true := wellFormed_ldwin.2 w.size
  calc Host.Core.run core 3 s
    _ = Host.Core.run core 2
          ({ s with inputs := .frame (encode .split) :: .frame (encode .decrypt) :: rest }.beginCycle w).accept :=
      run_succ_of_step ((step_of_decode_ok hi (decode_encode_of_wellFormed hldwin)).trans
        (exec_ldwin_of_ne_recover w hp)) 2
    _ = Host.Core.run core 1 (envelopeHeld { s with inputs := .frame (encode .decrypt) :: rest } w) :=
      run_succ_of_step ((step_of_decode_ok rfl (decode_encode_of_wellFormed rfl)).trans
        (exec_split_of_valid rfl rfl hv)) 1
    _ = .next _ :=
      run_succ_of_step ((step_of_decode_ok rfl (decode_encode_of_wellFormed rfl)).trans
        (exec_decrypt_envelopeHeld (s := { s with inputs := rest }) w hk)) 0

/-- Settles O39: the window is valid and its envelope delimits the sealed span, whose tag verifies. -/
theorem sealedPlaintextDecrypts : Obligations.SealedPlaintextDecrypts := by
  intro s k title ctr fillA fillB p after l w rest hp hk hi hl hw
  have hlen : l.toNat = 20 + (sealedSpan k title ctr p).length := by rw [sealedSpan_length]; omega
  have hframe := envelopeOf_frameLen_of_windowBytes hw
  have htitle := envelopeOf_sysTitle_of_windowBytes hw
  have hctr := envelopeOf_frameCtr_of_windowBytes hw
  have hrun := run_cycle_of_validWindow hp hk hi (validWindow_of_windowBytes hw)
  rw [htitle, hctr, spanOf_of_windowBytes hw hlen, decryptCycle_sealedSpan] at hrun
  have hfits : p.length % 256 = p.length := Nat.mod_eq_of_lt (by have := l.isLt; omega)
  exact ⟨_, hrun, rfl, rfl, by simp [hfits], rfl, rfl, rfl, congrArg some hframe, congrArg some htitle,
    congrArg some hctr, rfl, hk, rfl, rfl⟩

/-! ## The state after reset, and how a step takes its input (rules R39, R59, R106) -/

/-- Settles O2: the literal is the table of rule R39, and its `STATUS` that of any reset. -/
theorem resetStateIsTheTable : Obligations.ResetStateIsTheTable :=
  ⟨rfl, State.applyReset_status State.reset⟩

/-- Settles O3, by the law of a step that takes a frame which is a command. -/
theorem stepRunsDecodedFrame : Obligations.StepRunsDecodedFrame :=
  fun _ _ _ _ => step_of_decode_ok

/-- Settles O4: by the timer's input or the want of one, and by the phase. -/
theorem timerStepsOnlyInRecover : Obligations.TimerStepsOnlyInRecover := by
  refine ⟨fun s rest hi hp => ?_, fun s rest hi hp => ?_, fun s hi hp => ?_, fun s hi hp => ?_⟩
  · exact (step_timer hi).trans (timerExpiry_of_recover hp)
  · exact (step_timer hi).trans (timerExpiry_of_ne_recover hp)
  · exact (step_quiet hi).trans (quietStep_of_recover hp)
  · exact (step_quiet hi).trans (quietStep_of_ne_recover hp)

/-- Settles O25: the state after reset is one that the reset input leads to. -/
theorem resetMeetsInvariant : Obligations.ResetMeetsInvariant := stateInv_reset

end Sys2Proof.Machine
